-- ==== Sys2Proof/Word.lean ====
section
/-! DEFINITION. The words of the machine: bytes, the 32-bit selector, and the 64-bit values of registers and addresses (00_scope.md R5, R7; 10_state.md R11, R12, R14). -/

namespace Sys2Proof

/-- One byte of program text. -/
abbrev Byte := BitVec 8

/-- The 32-bit leaf selector EAX (10_state.md R11). -/
abbrev Selector := BitVec 32

/-- Registers, addresses (effective, linear, physical) and VMCS values (20_memory.md R40). -/
abbrev Word := BitVec 64

end Sys2Proof
end

