-- ==== Sys2Proof/Config.lean ====
section
/-! DEFINITION. The implementation parameters of 00_scope.md R4, as plain data that a state carries (assumption 8), and the free values, which have no body. -/

namespace Sys2Proof

/-- The kind of access handed to the DS checks and to Translate (R4, `ETRACKC_ACCESS`). -/
inductive AccessKind where
  | read
  | write
  | readWrite
deriving DecidableEq, Repr

/-- What PF, AF, OF and SF hold after the S4 conflict path (R4, `CONFLICT_PATH_FLAGS`; 40_etrackc.md R76). -/
inductive ConflictPathFlags where
  | cleared
  | draw
deriving DecidableEq, Repr

/-- The hardware exception a model fault of S0 stands for (R4, `CPL_FAULT`; 60_exceptions.md R115). -/
inductive CplFault where
  | notCPL0
  | invalidOpcode
deriving DecidableEq, Repr

/-- The named parameters of R4 that differ between implementations. `NUM_LP` and `EPC` are not here: they are
read off the state's processors and page table. -/
structure Config where
  /-- `FEATURE_ETRACKC`: the CPUID feature flag "EAX[6]" (10_state.md R20). -/
  featureEtrackc : Bool
  /-- `LA_BITS`: the implemented linear-address width. -/
  laBits : Nat
  /-- `PA_BITS`: the width of a physical address. -/
  paBits : Nat
  /-- `TRACKING_BITS`: the width of the SECS field TRACKING. -/
  trackingBits : Nat
  /-- `ENCLAVECONTEXT_BITS`: the width of the SECS field ENCLAVECONTEXT. -/
  enclaveContextBits : Nat
  /-- `ENCLS_LEN`: the length of the ENCLS instruction in bytes. -/
  enclsLen : Nat
  /-- `CPL_FAULT`. -/
  cplFault : CplFault
  /-- `ETRACKC_ACCESS`. -/
  access : AccessKind
  /-- `PFEC_SGX`: the mask of the page-fault error-code bit `PFEC.SGX`. -/
  pfecSgx : Word
  /-- `EXIT_REASON_SGX_CONFLICT`. The width of this and of the two codes below is the model's choice (10_state.md R22;
  DESIGN CHOICE, assumption 30). -/
  exitReasonSgxConflict : Word
  /-- `QUAL_TRACKING_RESOURCE_CONFLICT`. -/
  qualTrackingResourceConflict : Word
  /-- `QUAL_TRACKING_REFERENCE_CONFLICT`. -/
  qualTrackingReferenceConflict : Word
  /-- `CONFLICT_PATH_FLAGS`. -/
  conflictPathFlags : ConflictPathFlags
  /-- `NoConcurrentSGX`: the optional launch premise under which the two conflict draws are false. -/
  noConcurrentSGX : Bool
deriving DecidableEq, Repr

/-- `StartTrackingCycle`: what a successful ETRACKC does to the uninterpreted TrackState (10_state.md R28, D14).
It has no body: nothing is known of it. -/
opaque Config.startTrackingCycle : Nat → Nat

/-- FREE VALUE: whether the target page is being modified at the n-th execution (20_memory.md R50). -/
opaque Config.freePageBeingModified : Nat → Bool

/-- FREE VALUE: whether the tracking facility is in use at the n-th execution (20_memory.md R51). -/
opaque Config.freeTrackingFacilityBusy : Nat → Bool

/-- FREE VALUE: the error-code bits other than `PFEC.SGX` when the operand is outside the EPC (20_memory.md R46). -/
opaque Config.freePfecBits : Nat → Word

/-- FREE VALUE: the oracle's error code for a page its table does not list (20_memory.md R45). -/
opaque Config.freeOraclePfec : Nat → Word

/-- FREE VALUE: TRACKING after a successful ETRACKC (40_etrackc.md R81). -/
opaque Config.freeTracking : Nat → Nat

/-- FREE VALUE: PF after the S4 path under `CONFLICT_PATH_FLAGS = Draw` (40_etrackc.md R76). -/
opaque Config.freePF : Nat → Bool

/-- FREE VALUE: AF after the S4 path under `CONFLICT_PATH_FLAGS = Draw` (40_etrackc.md R76). -/
opaque Config.freeAF : Nat → Bool

/-- FREE VALUE: OF after the S4 path under `CONFLICT_PATH_FLAGS = Draw` (40_etrackc.md R76). -/
opaque Config.freeOF : Nat → Bool

/-- FREE VALUE: SF after the S4 path under `CONFLICT_PATH_FLAGS = Draw` (40_etrackc.md R76). -/
opaque Config.freeSF : Nat → Bool

end Sys2Proof
end

