-- ==== Sys2Proof/Syntax.lean ====
section
/-! DEFINITION. The instruction set: the one row of spec/opcode_table.json (30_encoding.md R68). -/

namespace Sys2Proof

/-- One constructor per row of the opcode table. ETRACKC has no operand field of any kind: its operands are the
implicit registers EAX, RAX and RCX and the segment DS (30_encoding.md R61, R64). -/
inductive Instr where
  | etrackc
deriving DecidableEq, Repr

end Sys2Proof
end

