-- ==== Sys2Proof/WellFormed.lean ====
section
/-! DEFINITION. Well-formedness of instructions and of the parameters of a machine. -/

namespace Sys2Proof

/-- An instruction's well-formedness. ETRACKC has no field that could hold an ill-formed value (30_encoding.md
R64), so there is nothing to check. -/
def Instr.wellFormed : Instr → Bool
  | .etrackc => true

/-- `LA_BITS` is the width of a 64-bit linear address's implemented part: the sign position LA_BITS - 1 exists
(20_memory.md R43). -/
def Config.laBitsOk (c : Config) : Bool := decide (1 ≤ c.laBits ∧ c.laBits ≤ 64)

/-- `PA_BITS` is at most 64 (00_scope.md R4). -/
def Config.paBitsOk (c : Config) : Bool := decide (c.paBits ≤ 64)

/-- ENCLAVECONTEXT is carried as a 64-bit value (00_scope.md R4). -/
def Config.enclaveContextBitsOk (c : Config) : Bool := decide (c.enclaveContextBits ≤ 64)

/-- `PFEC.SGX` is one bit of the error code (00_scope.md R4). -/
def Config.pfecSgxOk (c : Config) : Bool := c.pfecSgx != 0 && c.pfecSgx &&& (c.pfecSgx - 1) == 0

/-- The two exit-qualification codes differ (00_scope.md R4, D26). -/
def Config.codesDiffer (c : Config) : Bool :=
  c.qualTrackingResourceConflict != c.qualTrackingReferenceConflict

/-- What 00_scope.md R4 asks of the parameters. -/
def Config.wellFormed (c : Config) : Bool :=
  c.laBitsOk && c.paBitsOk && c.enclaveContextBitsOk && c.pfecSgxOk && c.codesDiffer

end Sys2Proof
end

