-- ==== Sys2Proof/Decode.lean ====
section
/-! DEFINITION. The decoder of ENCLS and its leaf, and the encoder (30_encoding.md R60 to R66). A decoder for this
hardware is a function of two things: the bytes at pc, and the value of EAX (R60). The bytes are general knowledge
(G1; PRESUMED, assumption 9): the spec's opcode table gives a pattern of EAX only. -/

namespace Sys2Proof

/-- Why the bytes and the selector are no instruction of this spec. -/
inductive DecodeError where
  /-- An ENCLS that carries a prefix (30_encoding.md R66). -/
  | prefixed
  /-- ENCLS with another leaf number in EAX (30_encoding.md R65). -/
  | otherLeaf (eax : Selector)
  /-- The bytes are not those of ENCLS. -/
  | notEncls
  /-- The bytes end before an ENCLS is complete. -/
  | truncated
deriving DecidableEq, Repr

/-- `LEAF_ETRACKC`: the value of EAX that selects the leaf (00_scope.md R4, 30_encoding.md R60). -/
def leafEtrackc : Selector := 0x11

/-- The bytes of ENCLS, `0F 01 CF` (30_encoding.md R62, G1; PRESUMED, assumption 9). -/
def enclsBytes : List Byte := [0x0F, 0x01, 0xCF]

/-- A one-byte prefix: LOCK, REPNE, REP, the six segment overrides, operand size, address size, and REX (40H to 4FH)
(30_encoding.md R66 names the kinds; the byte values are PRESUMED, assumption 9). -/
def isPrefix (b : Byte) : Bool :=
  b == 0xF0 || b == 0xF2 || b == 0xF3 || b == 0x2E || b == 0x36 || b == 0x3E || b == 0x26 || b == 0x64 || b == 0x65
    || b == 0x66 || b == 0x67 || (b >>> 4) == 0x4

/-- Whether the bytes, from the first non-prefix byte on, are ENCLS, plain or under a VEX prefix (which stands for
the byte 0F). -/
def beginsEncls : List Byte → Bool
  | b0 :: b1 :: b2 :: rest =>
    (b0 == 0x0F && b1 == 0x01 && b2 == 0xCF)
      || (b0 == 0xC5 && b2 == 0x01 && rest.head? == some 0xCF)
      || (b0 == 0xC4 && rest.head? == some 0x01 && rest.tail.head? == some 0xCF)
  | _ => false

/-- Total on any bytes and any EAX: the instruction with the bytes after it, or the reason there is none. The
prefix is seen before the leaf number (40_etrackc.md R71 S0), behind any number of bytes (assumption 38). -/
def decode (bytes : List Byte) (eax : Selector) : Except DecodeError (Instr × List Byte) :=
  match bytes with
  | b0 :: b1 :: b2 :: rest =>
    if b0 = 0x0F ∧ b1 = 0x01 ∧ b2 = 0xCF then
      if eax = leafEtrackc then .ok (.etrackc, rest) else .error (.otherLeaf eax)
    else if beginsEncls ((b0 :: b1 :: b2 :: rest).dropWhile isPrefix) then .error .prefixed
    else if ((b0 :: b1 :: b2 :: rest).dropWhile isPrefix).length < 3 then .error .truncated
    else .error .notEncls
  | _ => .error .truncated

/-- The bytes of an instruction in the program text. -/
def encodeBytes : Instr → List Byte
  | .etrackc => enclsBytes

/-- The value EAX holds when an instruction executes: the word spec/opcode_table.json gives its row. -/
def encodeSelector : Instr → Selector
  | .etrackc => leafEtrackc

/-- The instruction read from a word of spec/opcode_table.json. The table's word is the value of EAX at the moment
ENCLS executes, not instruction bytes (30_encoding.md R60), so it is decoded beside the bytes of a bare ENCLS. -/
def decodeTableWord (nbits w : Nat) : Option Instr :=
  match decode enclsBytes (BitVec.ofNat 32 (w % 2 ^ nbits)) with
  | .ok (i, _) => some i
  | .error _ => none

end Sys2Proof
end

