-- ==== Sys2Proof/Machine/Params.lean ====
section
/-! DEFINITION. The parameter values State.reset carries: the defaults of 00_scope.md R4 where it recommends one, its
customary values where it names one (PRESUMED, assumption 6), and placeholders elsewhere (DESIGN CHOICE, assumption 7). -/

namespace Sys2Proof.Machine

/-- The parameters of the machine right after launch. `FEATURE_ETRACKC` is the launch premise FeaturePresent. -/
def customaryConfig : Config where
  featureEtrackc := true
  laBits := 48
  paBits := 64
  trackingBits := 64
  enclaveContextBits := 64
  enclsLen := 3
  cplFault := .notCPL0
  access := .readWrite
  pfecSgx := 0x8000
  exitReasonSgxConflict := 0
  qualTrackingResourceConflict := 0
  qualTrackingReferenceConflict := 1
  conflictPathFlags := .cleared
  noConcurrentSGX := false

end Sys2Proof.Machine
end

