-- ==== Sys2Proof/Machine/State.lean ====
section
/-! DEFINITION. The state of the machine as plain data (10_state.md), the reasons a step can stop, and the state after
reset. -/

namespace Sys2Proof.Machine

/-- The operating mode of a logical processor (10_state.md R18): the two the source gives exception lists for, and
the four R18 names as outside the model. -/
inductive Mode where
  | mode64
  | prot32
  | realAddress
  | virtual8086
  | compatibility
  | systemManagement
deriving DecidableEq, Repr

/-- The EPCM page type (10_state.md R24, D16). -/
inductive PageType where
  | secs
  | tcs
  | reg
  | trim
  | other (n : Nat)
deriving DecidableEq, Repr

/-- The return codes of Table 40-48 (40_etrackc.md R83). -/
inductive ReturnCode where
  | noError
  | epcPageConflict
  | pgInvld
  | prevTrkIncmpl
  | trackNotRequired
deriving DecidableEq, Repr

/-- The exceptions ETRACKC raises (60_exceptions.md R101 to R103). -/
inductive Exc where
  /-- #GP with its error code. -/
  | gp (errorCode : Word)
  /-- #PF with the faulting linear address and the page-fault error code. -/
  | pf (la pfec : Word)
deriving DecidableEq, Repr

/-- The spec's own faults (60_exceptions.md R115). -/
inductive ModelFault where
  | leafUnavailable
  | notCPL0
deriving DecidableEq, Repr

/-- The fields a tracking-conflict VM exit reports (00_scope.md R8). The width of the first three is the model's choice
(DESIGN CHOICE, assumption 30). -/
structure VmExit where
  reason : Word
  code : Word
  error : Word
  gpa : Word
  gla : Word
deriving DecidableEq, Repr

/-- Situations the spec gives no meaning (00_scope.md R8, 40_etrackc.md R72). A step records one as the terminal outcome
of the processor concerned (70_reset_and_hazards.md R137, assumption 39). -/
inductive Refusal where
  /-- An instruction without a meaning yet. Raised by no arm. Safe. -/
  | notModelled (mnemonic : String)
  /-- A mode other than Mode64 and Prot32 (10_state.md R18). Raised by `turn` and by ETRACKC. Safe. -/
  | unsupportedMode
  /-- ENCLS with a prefix (30_encoding.md R66). Raised by `turn`. Safe. -/
  | prefixed
  /-- ENCLS with another leaf number in EAX (30_encoding.md R65). Raised by `turn` and by ETRACKC. Safe. -/
  | otherLeaf (eax : Selector)
  /-- The EPCM breaks SGXWellFormed (10_state.md R30). Raised by ETRACKC. Safe. -/
  | sgxNotWellFormed
  /-- A Prot32 DS base that is not page aligned (20_memory.md R41). Raised by ETRACKC. Safe. -/
  | dsBaseNotPageAligned
  /-- The instruction or its successor would pass the top of the address space (10_state.md R14). Raised by `turn` and by ETRACKC. Safe. -/
  | pcWrap
  /-- The bytes at pc are not ENCLS: no other instruction is in scope (00_scope.md R3). Raised by `turn`. Safe. -/
  | notEncls
deriving DecidableEq, Repr

/-- The outcome of one execution (00_scope.md R8). -/
inductive LpOutcome where
  | completed (c : ReturnCode)
  | exception (e : Exc)
  | vmExit (x : VmExit)
  /-- A model fault, with the hardware exception the parameter CPL_FAULT maps it to (40_etrackc.md R72). -/
  | modelFault (f : ModelFault) (mapped : CplFault)
  /-- No meaning was given to the execution; nothing is written. -/
  | refused (r : Refusal)
deriving DecidableEq, Repr

/-- The six flags of RFLAGS that ETRACKC writes (10_state.md R15). -/
structure Flags where
  zf : Bool
  cf : Bool
  pf : Bool
  af : Bool
  of : Bool
  sf : Bool
deriving DecidableEq, Repr

/-- A range of DS offsets at which an access of one kind violates the segment's access-control policies. -/
structure DsViolation where
  kind : AccessKind
  first : Nat
  size : Nat
deriving DecidableEq, Repr

/-- The data segment (10_state.md R19), with its predicate DSViolation as data (20_memory.md R44, assumption 16). -/
structure DataSegment where
  usable : Bool
  base : Word
  violations : List DsViolation
deriving DecidableEq, Repr

/-- What a range of linear pages translates to. -/
inductive MapTarget where
  /-- Consecutive physical page frames from this frame number on. -/
  | frames (first : Nat)
  /-- A page fault with this error code. -/
  | fault (pfec : Word)
deriving DecidableEq, Repr

/-- One entry of the translation oracle's table (20_memory.md R45, assumption 17). -/
structure Mapping where
  kind : AccessKind
  firstPage : Nat
  pages : Nat
  target : MapTarget
deriving DecidableEq, Repr

/-- The execution control and the fields of the current VMCS (10_state.md R21, R22). R22 gives the exit reason and the two
parts of the exit qualification no width: 64 bits are the model's choice (DESIGN CHOICE, assumption 30). -/
structure Vmcs where
  enableEpcVirtualizationExtensions : Bool
  exitReason : Word
  exitQualificationCode : Word
  exitQualificationError : Word
  guestPhysicalAddress : Word
  guestLinearAddress : Word
deriving DecidableEq, Repr

/-- One logical processor and its private state (10_state.md R10). -/
structure LP where
  /-- The model's name for the processor (60_exceptions.md R113 gives none). -/
  id : Nat
  rax : Word
  rcx : Word
  /-- The other general registers, of which the source says nothing (10_state.md R13). -/
  otherGprs : List Word
  pc : Word
  flags : Flags
  /-- Every other bit of RFLAGS (10_state.md R16). -/
  otherRflags : Word
  cpl : Fin 4
  mode : Mode
  ds : DataSegment
  vmxNonRoot : Bool
  vmcs : Vmcs
  /-- The oracle Translate of this processor, its TLBs within (20_memory.md R45, 10_state.md R29). -/
  translation : List Mapping
  /-- The outcome of the last execution, none before the first (00_scope.md R8). -/
  outcome : Option LpOutcome
deriving DecidableEq, Repr

/-- The fields of a SECS that the source names (10_state.md R25) and its uninterpreted TrackState (R28). -/
structure Secs where
  tracking : Nat
  enclaveContext : Word
  trackState : Nat
deriving DecidableEq, Repr

/-- One page of the EPC: its EPCM entry (10_state.md R24), and the SECS it holds if it is a SECS page (R25). -/
structure EpcPage where
  valid : Bool
  pt : PageType
  enclaveSecs : Word
  secs : Secs
deriving DecidableEq, Repr

/-- The EPC and its EPCM: pages by physical address, addresses strictly rising (10_state.md R23). -/
abbrev Epc := List (Nat × EpcPage)

/-- Bytes by address, addresses strictly rising. An unlisted address has no value (assumption 33). -/
abbrev Memory := List Host.Cell

/-- The canonical form of a memory: addresses strictly rising, all within 64 bits. -/
abbrev Memory.wf (m : Memory) : Prop := m.Pairwise (fun c d => c.1 < d.1) ∧ ∀ c ∈ m, c.1 < 2 ^ 64

/-- The answers the environment gives at one execution (20_memory.md R45, R46, R50, R51; 40_etrackc.md R76, R81). -/
structure Draws where
  pageBeingModified : Bool
  trackingFacilityBusy : Bool
  pfecBits : Word
  oraclePfec : Word
  tracking : Nat
  pf : Bool
  af : Bool
  of : Bool
  sf : Bool
deriving DecidableEq, Repr

/-- The values the harness places in RAX and RCX before an execution (70_reset_and_hazards.md R137). -/
structure RegLoad where
  rax : Option Word
  rcx : Option Word
deriving DecidableEq, Repr

/-- One step of a run (70_reset_and_hazards.md R137). -/
inductive Event where
  /-- The processor `lp` executes the ENCLS at its pc, after the harness placed `load`. -/
  | encls (lp : Nat) (load : RegLoad)
  /-- The environment sets TRACKING of the SECS at `secsPa` (60_exceptions.md R113). -/
  | trackingProgress (secsPa : Nat) (value : Nat)
deriving DecidableEq, Repr

/-- The machine. -/
structure State where
  /-- The parameters, constant in every step (00_scope.md R4). -/
  cfg : Config
  /-- The logical processor whose turn it is. -/
  lp : LP
  /-- The other logical processors: NUM_LP is one more than their number. -/
  others : List LP
  epc : Epc
  /-- The program text, which no step writes (20_memory.md R54). -/
  text : Memory
  /-- What is still to come of the run (70_reset_and_hazards.md R137). -/
  schedule : List Event
  /-- The model's own: the environment's answers at the present execution (assumption 19). -/
  draws : Draws
  /-- The model's own: how many executions have drawn free values (assumption 19). -/
  drawCount : Nat
deriving DecidableEq, Repr

/-- Why the machine stops. -/
inductive Fault where
  /-- The schedule is exhausted: the run has ended (70_reset_and_hazards.md R137). Raised by `turn`. Safe. -/
  | runEnded
  /-- The schedule names a processor with a terminal outcome, which has no further step (60_exceptions.md R106, R109, R115, 70_reset_and_hazards.md R137; U20). Raised by `turn`. Safe. -/
  | lpHasNoFurtherStep
  /-- The schedule names no logical processor of the machine. Raised by `turn`. Safe. -/
  | noSuchProcessor
  /-- The program text has no byte where the instruction is fetched (assumption 33). Raised by `turn`. Safe. -/
  | textUnwritten
deriving DecidableEq, Repr

/-- The outcome of a step of this machine. -/
abbrev Result := Host.Outcome State Fault Refusal

/-- The launch state of a logical processor (assumptions 1, 2, 4, 5, 29): every value is the model's. -/
def LP.reset : LP where
  id := 0
  rax := 0
  rcx := 0
  otherGprs := []
  pc := 0
  flags := ⟨false, false, false, false, false, false⟩
  otherRflags := 0
  cpl := 0
  mode := .mode64
  ds := ⟨false, 0, []⟩
  vmxNonRoot := false
  vmcs := ⟨false, 0, 0, 0, 0, 0⟩
  translation := []
  outcome := none

/-- The draws before the first execution, which replaces them (assumption 19). -/
def Draws.reset : Draws := ⟨false, false, 0, 0, 0, false, false, false, false⟩

/-- The machine at launch. The source describes no reset (10_state.md R31, 70_reset_and_hazards.md R130): this is
one launch state that meets the premises of R131, with one processor, no EPC page, no program and nothing scheduled. -/
def State.reset : State where
  cfg := customaryConfig
  lp := LP.reset
  others := []
  epc := []
  text := []
  schedule := []
  draws := Draws.reset
  drawCount := 0

end Sys2Proof.Machine
end

