-- ==== Sys2Proof/Machine/Flags.lean ====
section
/-! DEFINITION. The return codes and the flags of every completing path (40_etrackc.md R76, R82, R83). -/

namespace Sys2Proof.Machine

/-- The value written to RAX: Table 40-48, zero-extended to 64 bits (40_etrackc.md R83, 10_state.md R11). -/
def returnValue : ReturnCode → Word
  | .noError => 0
  | .epcPageConflict => 7
  | .pgInvld => 6
  | .prevTrkIncmpl => 17
  | .trackNotRequired => 27

/-- "ZF is set if ETRACKC fails due to concurrent operations with another SGX instructions or target page is an
invalid EPC page or tracking is not completed on SECS page; otherwise cleared." (10_state.md R15) -/
def zfOf : ReturnCode → Bool
  | .noError | .trackNotRequired => false
  | .epcPageConflict | .pgInvld | .prevTrkIncmpl => true

/-- "CF is set if target page is not of a type that requires tracking; otherwise cleared." (10_state.md R15) -/
def cfOf : ReturnCode → Bool
  | .trackNotRequired => true
  | .noError | .epcPageConflict | .pgInvld | .prevTrkIncmpl => false

/-- The six flags after a completing path: ZF and CF by the code, the other four cleared at DONE (40_etrackc.md
R82, R83). -/
def completionFlags (c : ReturnCode) : Flags where
  zf := zfOf c
  cf := cfOf c
  pf := false
  af := false
  of := false
  sf := false

/-- The six flags after the S4 path, whose jump target the source does not define: as at DONE, or PF, AF, OF and SF
drawn, by the parameter CONFLICT_PATH_FLAGS (40_etrackc.md R76, D12). -/
def s4Flags (s : State) : Flags :=
  match s.cfg.conflictPathFlags with
  | .cleared => completionFlags .epcPageConflict
  | .draw => { zf := zfOf .epcPageConflict, cf := cfOf .epcPageConflict,
               pf := s.draws.pf, af := s.draws.af, of := s.draws.of, sf := s.draws.sf }

end Sys2Proof.Machine
end

