-- ==== Sys2Proof/Machine/Ops.lean ====
section
/-! DEFINITION. The named operations over memory, the EPC and the registers, the shared endings of an execution
(completion, exception, model fault, VM exit), and the launch predicates. -/

namespace Sys2Proof.Machine

/-! ### Program text -/

/-- The byte at an address; none where nothing is listed. -/
def Memory.read : Memory → Nat → Option Byte
  | [], _ => none
  | (b, v) :: m, a => if b = a then some v else Memory.read m a

/-- Writes one byte, keeping the addresses strictly rising. -/
def Memory.write : Memory → Nat → Byte → Memory
  | [], a, v => [(a, v)]
  | (b, w) :: m, a, v =>
    if a < b then (a, v) :: (b, w) :: m
    else if a = b then (a, v) :: m
    else (b, w) :: Memory.write m a v

/-- Writes bytes at consecutive addresses below 2^64. -/
def Memory.writeBytes (m : Memory) (a : Nat) : List Byte → Memory
  | [] => m
  | v :: vs => if a < 2 ^ 64 then Memory.writeBytes (m.write a v) (a + 1) vs else m

/-- The listed bytes from an address on, at most `n`, up to the first unlisted one or to the bound `top`. -/
def Memory.fetch (m : Memory) (top : Nat) : Nat → Nat → List Byte
  | 0, _ => []
  | n + 1, a =>
    if a ≤ top then
      match m.read a with
      | some v => v :: Memory.fetch m top n (a + 1)
      | none => []
    else []

/-! ### EPC, EPCM, SECS -/

/-- The EPC page at a physical address: none where the address is not in EPC (10_state.md R23). -/
def Epc.page? : Epc → Nat → Option EpcPage
  | [], _ => none
  | (b, p) :: e, a => if b = a then some p else Epc.page? e a

/-- Changes the SECS at a physical address; nothing where there is no such page. -/
def Epc.updateSecs (f : Secs → Secs) : Epc → Nat → Epc
  | [], _ => []
  | (b, p) :: e, a =>
    if b = a then (b, { p with secs := f p.secs }) :: e else (b, p) :: Epc.updateSecs f e a

/-- The canonical form of the EPC: addresses strictly rising. -/
abbrev Epc.sorted (e : Epc) : Prop := e.Pairwise (fun c d => c.1 < d.1)

/-- The types whose SECS is found through EPCM.ENCLAVESECS (40_etrackc.md R78 case (a)). -/
def PageType.throughEnclaveSecs : PageType → Bool
  | .reg | .tcs | .trim => true
  | .secs | .other _ => false

/-- `a[11:0] = 0` (20_memory.md R42): a multiple of `PAGE_SIZE`, 4096. -/
def pageAligned (a : Word) : Bool := a.extractLsb' 0 12 == 0

/-- SGXWellFormed at one page: the ENCLAVESECS of a valid PT_REG, PT_TCS or PT_TRIM page is 4-KByte aligned and the
address of a valid PT_SECS page of the EPC (10_state.md R30). -/
def pageWellFormed (e : Epc) (p : EpcPage) : Bool :=
  !(p.valid && p.pt.throughEnclaveSecs) ||
    (pageAligned p.enclaveSecs &&
      match Epc.page? e p.enclaveSecs.toNat with
      | some q => q.valid && q.pt == .secs
      | none => false)

/-- SGXWellFormed (10_state.md R30). -/
def sgxWellFormed (e : Epc) : Bool := e.all fun c => pageWellFormed e c.2

/-! ### Registers -/

/-- EAX is the low half of RAX (10_state.md R11). -/
def LP.eax (p : LP) : Selector := p.rax.setWidth 32

/-- The highest address of the processor's address space (10_state.md R14, 40_etrackc.md R71). -/
def topAddress : Mode → Nat
  | .prot32 => 2 ^ 32 - 1
  | .mode64 | .realAddress | .virtual8086 | .compatibility | .systemManagement => 2 ^ 64 - 1

/-- Whether the spec gives the mode a meaning (10_state.md R18). -/
def modeSupported : Mode → Bool
  | .mode64 | .prot32 => true
  | .realAddress | .virtual8086 | .compatibility | .systemManagement => false

/-- Whether the processor's last outcome leaves it no further step (60_exceptions.md R106, R109, R115;
70_reset_and_hazards.md R137). -/
def LP.terminal (p : LP) : Bool :=
  match p.outcome with
  | none | some (.completed _) => false
  | some (.exception _) | some (.vmExit _) | some (.modelFault _ _) | some (.refused _) => true

/-- The state with the executing processor replaced. -/
def State.setLp (s : State) (p : LP) : State := { s with lp := p }

/-! ### The endings of an execution -/

/-- Completion with a return code: RAX, the six flags and pc are written (40_etrackc.md R82 to R84, 10_state.md
R11, R14). -/
def complete (c : ReturnCode) (f : Flags) (s : State) : State :=
  s.setLp { s.lp with
    rax := returnValue c
    flags := f
    pc := s.lp.pc + BitVec.ofNat 64 s.cfg.enclsLen
    outcome := some (.completed c) }

/-- TAKING AN EXCEPTION: a terminal outcome of the executing processor that writes nothing else (60_exceptions.md
R105, R106). The spec has no return from an exception (R107): the processor has no further step. -/
def takeException (e : Exc) (s : State) : State :=
  s.setLp { s.lp with outcome := some (.exception e) }

/-- Taking one of the spec's own faults (60_exceptions.md R115). -/
def takeModelFault (f : ModelFault) (s : State) : State :=
  s.setLp { s.lp with outcome := some (.modelFault f s.cfg.cplFault) }

/-- A refused execution: a terminal outcome of the processor that writes nothing else (00_scope.md R8, 60_exceptions.md
R105, 70_reset_and_hazards.md R137; assumption 39). -/
def takeRefusal (r : Refusal) (s : State) : State :=
  s.setLp { s.lp with outcome := some (.refused r) }

/-- The VM exit with reason SGX_CONFLICT: five VMCS fields are written, the guest is otherwise unchanged
(60_exceptions.md R109). -/
def takeVmExit (code gpa : Word) (s : State) : State :=
  s.setLp { s.lp with
    vmcs := { s.lp.vmcs with
      exitReason := s.cfg.exitReasonSgxConflict
      exitQualificationCode := code
      exitQualificationError := 0
      guestPhysicalAddress := gpa
      guestLinearAddress := 0 }
    outcome := some (.vmExit ⟨s.cfg.exitReasonSgxConflict, code, 0, gpa, 0⟩) }

/-! ### Conditions of the Operation that depend on the environment -/

/-- PageBeingModified(pa): a draw, false under NoConcurrentSGX (20_memory.md R50). -/
def pageBeingModified (s : State) : Bool := !s.cfg.noConcurrentSGX && s.draws.pageBeingModified

/-- TrackingFacilityBusy(tmp_secs): a draw, false under NoConcurrentSGX (20_memory.md R51). -/
def trackingFacilityBusy (s : State) : Bool := !s.cfg.noConcurrentSGX && s.draws.trackingFacilityBusy

/-- "(VMX non-root mode) and (ENABLE_EPC_VIRTUALIZATION_EXTENSIONS Execution Control = 1)" (10_state.md R21). -/
def vmExitEnabled (p : LP) : Bool := p.vmxNonRoot && p.vmcs.enableEpcVirtualizationExtensions

/-- A TRACKING value cut to the field's width (10_state.md R25). -/
def trackingField (c : Config) (v : Nat) : Nat := v % 2 ^ c.trackingBits

/-- A successful ETRACKC's effect on the SECS: StartTrackingCycle on its TrackState, and TRACKING a draw
(40_etrackc.md R81, D14). -/
def startTracking (secsPa : Nat) (s : State) : State :=
  { s with epc := s.epc.updateSecs (fun q => { q with
      trackState := Config.startTrackingCycle q.trackState
      tracking := trackingField s.cfg s.draws.tracking }) secsPa }

/-- The environment step TrackingProgress: TRACKING of a SECS takes any value (60_exceptions.md R113). -/
def trackingProgress (secsPa value : Nat) (s : State) : State :=
  { s with epc := s.epc.updateSecs (fun q => { q with tracking := trackingField s.cfg value }) secsPa }

end Sys2Proof.Machine
end

