-- ==== Sys2Proof/Machine/Operands.lean ====
section
/-! DEFINITION. The one operand form of ETRACKC, DS:RCX: from RCX to the EPC page (20_memory.md R41 to R46). -/

namespace Sys2Proof.Machine

/-- The effective address: RCX whole in Mode64, RCX[31:0] zero-extended in Prot32 (20_memory.md R41, D6). The other
modes have no meaning and are refused before it is read. -/
def effectiveAddress (p : LP) : Word :=
  match p.mode with
  | .mode64 => p.rcx
  | .prot32 | .realAddress | .virtual8086 | .compatibility | .systemManagement => (p.rcx.setWidth 32).setWidth 64

/-- The linear address: the effective address in Mode64, (DS.base + ea)[31:0] zero-extended in Prot32 (20_memory.md
R41, D7). -/
def linearAddress (p : LP) : Word :=
  match p.mode with
  | .mode64 => effectiveAddress p
  | .prot32 | .realAddress | .virtual8086 | .compatibility | .systemManagement =>
    ((p.ds.base + effectiveAddress p).setWidth 32).setWidth 64

/-- Bits `la[63 : LA_BITS-1]` are all equal (20_memory.md R43). -/
def canonical (laBits : Nat) (la : Word) : Bool :=
  la >>> (laBits - 1) == 0 || la >>> (laBits - 1) == BitVec.allOnes 64 >>> (laBits - 1)

/-- DSViolation(ea, kind) (20_memory.md R44). -/
def dsViolation (d : DataSegment) (ea : Word) (kind : AccessKind) : Bool :=
  d.violations.any fun v => v.kind == kind && decide (v.first ≤ ea.toNat ∧ ea.toNat < v.first + v.size)

/-- The S2 checks: canonical form in Mode64, the DS checks in Prot32 (20_memory.md R43, R44; 40_etrackc.md R74). -/
def segmentFault (c : Config) (p : LP) : Bool :=
  match p.mode with
  | .mode64 => !canonical c.laBits (linearAddress p)
  | .prot32 | .realAddress | .virtual8086 | .compatibility | .systemManagement =>
    !p.ds.usable || dsViolation p.ds (effectiveAddress p) c.access

/-- What Translate answers (20_memory.md R45). -/
inductive Translation where
  | ok (pa : Word)
  | pageFault (pfec : Word)
deriving DecidableEq, Repr

/-- Whether an entry of the oracle's table is about this page and access. -/
def Mapping.covers (m : Mapping) (page : Nat) (kind : AccessKind) : Bool :=
  m.kind == kind && decide (m.firstPage ≤ page ∧ page < m.firstPage + m.pages)

/-- Translate(la, kind): the first entry of the processor's table that covers the page of `la` answers; a page no
entry covers faults with the error code `unlisted` (20_memory.md R45, assumption 17). The page offset is kept. -/
def translateAddress (table : List Mapping) (unlisted la : Word) (kind : AccessKind) : Translation :=
  match table.find? (fun m => m.covers (la.toNat / 4096) kind) with
  | none => .pageFault unlisted
  | some m =>
    match m.target with
    | .fault pfec => .pageFault pfec
    | .frames f => .ok (BitVec.ofNat 64 ((f + (la.toNat / 4096 - m.firstPage)) * 4096 + la.toNat % 4096))

/-- `pa` with its low 12 bits cleared, the key of its page (00_scope.md R7, InEPC). -/
def pageKey (pa : Word) : Nat := pa.toNat / 4096 * 4096

/-- What the operand resolves to. -/
inductive Resolved where
  | exception (e : Exc)
  | page (pa : Word) (p : EpcPage)
deriving DecidableEq, Repr

/-- S3: translation, then the EPC check (40_etrackc.md R75). -/
def resolveLinear (s : State) (la : Word) : Resolved :=
  match translateAddress s.lp.translation s.draws.oraclePfec la s.cfg.access with
  | .pageFault pfec => .exception (.pf la pfec)
  | .ok pa =>
    match s.epc.page? (pageKey pa) with
    | none => .exception (.pf la (s.cfg.pfecSgx ||| s.draws.pfecBits))
    | some p => .page pa p

/-- S1 to S3: alignment, the segment and canonical checks, translation and the EPC check (40_etrackc.md R73 to R75). -/
def resolveOperand (s : State) : Resolved :=
  if !pageAligned (linearAddress s.lp) then .exception (.gp 0)
  else if segmentFault s.cfg s.lp then .exception (.gp 0)
  else resolveLinear s (linearAddress s.lp)

end Sys2Proof.Machine
end

