-- ==== Sys2Proof/Machine/Etrackc.lean ====
section
/-! DEFINITION. The meaning of ENCLS[ETRACKC] (40_etrackc.md R71), step by step from the end of the Operation to its
beginning: S8 and S9, S7, S6, S5, S4, and the whole. -/

namespace Sys2Proof.Machine

/-- The refusals of S0, in the order of 40_etrackc.md R71. The prefix test stands in the decoder: an instruction
that reaches its meaning carries none. -/
def launchRefusal (s : State) : Option Refusal :=
  if !modeSupported s.lp.mode then some .unsupportedMode
  else if s.lp.eax ≠ leafEtrackc then some (.otherLeaf s.lp.eax)
  else if !sgxWellFormed s.epc then some .sgxNotWellFormed
  else if s.lp.mode = .prot32 ∧ !pageAligned s.lp.ds.base then some .dsBaseNotPageAligned
  else if topAddress s.lp.mode < s.lp.pc.toNat + s.cfg.enclsLen then some .pcWrap
  else none

/-- A tracking conflict on the SECS `q`: the VM exit where it is enabled, else completion with the code (S7 and S8;
40_etrackc.md R79, R80). -/
def trackingConflict (q : Secs) (qualification : Word) (c : ReturnCode) (s : State) : State :=
  if vmExitEnabled s.lp then takeVmExit qualification q.enclaveContext s
  else complete c (completionFlags c) s

/-- S7 to S9: the work on the SECS found (40_etrackc.md R79 to R81). -/
def etrackcOnSecs (secsPa : Nat) (q : Secs) (s : State) : State :=
  if trackingFacilityBusy s then
    trackingConflict q s.cfg.qualTrackingResourceConflict .epcPageConflict s
  else if q.tracking ≠ 0 then
    trackingConflict q s.cfg.qualTrackingReferenceConflict .prevTrkIncmpl s
  else complete .noError (completionFlags .noError) (startTracking secsPa s)

/-- S6: where the SECS of the page is, none for a type that needs no tracking (40_etrackc.md R78). -/
def targetSecs (pa : Word) (p : EpcPage) : Option Nat :=
  match p.pt with
  | .reg | .tcs | .trim => some p.enclaveSecs.toNat
  | .secs => some (pageKey pa)
  | .other _ => none

/-- S4 to S9: the work on the EPC page the operand resolves to (40_etrackc.md R76 to R81). Under SGXWellFormed the
SECS found is always a page of the EPC; the last refusal is not reached. -/
def etrackcOnPage (pa : Word) (p : EpcPage) (s : State) : Result :=
  if pageBeingModified s then .next (complete .epcPageConflict (s4Flags s) s)
  else if !p.valid then .next (complete .pgInvld (completionFlags .pgInvld) s)
  else match targetSecs pa p with
    | none => .next (complete .trackNotRequired (completionFlags .trackNotRequired) s)
    | some secsPa =>
      match s.epc.page? secsPa with
      | none => .refused .sgxNotWellFormed
      | some sp => .next (etrackcOnSecs secsPa sp.secs s)

/-- ENCLS[ETRACKC], complete and in order (40_etrackc.md R71). -/
def execEtrackc (s : State) : Result :=
  match launchRefusal s with
  | some r => .refused r
  | none =>
    if !s.cfg.featureEtrackc then .next (takeModelFault .leafUnavailable s)
    else if s.lp.cpl ≠ 0 then .next (takeModelFault .notCPL0 s)
    else match resolveOperand s with
      | .exception e => .next (takeException e s)
      | .page pa p => etrackcOnPage pa p s

end Sys2Proof.Machine
end

