-- ==== Sys2Proof/Machine/Run.lean ====
section
/-! DEFINITION. The run around the instruction (70_reset_and_hazards.md R137): whose turn it is, the harness's
register values, the free values of the execution, and fetching the ENCLS at pc. -/

namespace Sys2Proof.Machine

/-- Takes the processor of this name out of a list. -/
def takeLp (k : Nat) : List LP → Option (LP × List LP)
  | [] => none
  | p :: ps => if p.id = k then some (p, ps) else (takeLp k ps).map fun r => (r.1, p :: r.2)

/-- The state with the named processor as the one whose turn it is. -/
def focus (k : Nat) (s : State) : Option State :=
  if s.lp.id = k then some s
  else (takeLp k s.others).map fun r => { s with lp := r.1, others := s.lp :: r.2 }

/-- The harness places values in RAX and RCX (70_reset_and_hazards.md R137, 30_encoding.md R67). -/
def loadRegs (l : RegLoad) (s : State) : State :=
  s.setLp { s.lp with rax := l.rax.getD s.lp.rax, rcx := l.rcx.getD s.lp.rcx }

/-- The free values of the n-th execution (assumption 19). -/
def freeDraws (n : Nat) : Draws where
  pageBeingModified := Config.freePageBeingModified n
  trackingFacilityBusy := Config.freeTrackingFacilityBusy n
  pfecBits := Config.freePfecBits n
  oraclePfec := Config.freeOraclePfec n
  tracking := Config.freeTracking n
  pf := Config.freePF n
  af := Config.freeAF n
  of := Config.freeOF n
  sf := Config.freeSF n

/-- The state with fresh draws (20_memory.md R50, R51). -/
def refreshDraws (s : State) : State :=
  { s with draws := freeDraws s.drawCount, drawCount := s.drawCount + 1 }

/-- The state in which a processor's execution begins: its turn, the harness's values placed, fresh draws. -/
def beginExecution (l : RegLoad) (s : State) : State := refreshDraws (loadRegs l s)

/-- The bytes fetched at pc: all that are listed without a gap, within the address space. How many bytes an instruction
may have is open (30_encoding.md R66); the model sets no limit (DESIGN CHOICE, assumption 38). No run of listed bytes is
longer than the list. -/
def fetchBytes (s : State) : List Byte :=
  s.text.fetch (topAddress s.lp.mode) s.text.length s.lp.pc.toNat

/-- What a turn comes to: the outcome of the step, or an instruction to execute and the state to execute it in. -/
inductive Turn where
  | done (r : Result)
  | execute (i : Instr) (s : State)

/-- A refusal becomes the terminal outcome of the processor in focus; every other answer stands (70_reset_and_hazards.md
R137; assumption 39). -/
def recordRefusal (s : State) : Result → Result
  | .next t => .next t
  | .fault f => .fault f
  | .refused r => .next (takeRefusal r s)

/-- How the step stops where there is no instruction: the decoder's reason, and where the bytes end too early, whether
they end at the top of the address space (10_state.md R14) or at an unwritten byte (assumption 33). -/
def fetchStop (s : State) : DecodeError → Result
  | .prefixed => .refused .prefixed
  | .otherLeaf eax => .refused (.otherLeaf eax)
  | .notEncls => .refused .notEncls
  | .truncated =>
    if topAddress s.lp.mode < s.lp.pc.toNat + (fetchBytes s).length then .refused .pcWrap else .fault .textUnwritten

/-- Fetches and decodes the instruction at pc. The mode comes first, then a prefix, then EAX (40_etrackc.md R71 S0). -/
def fetchInstr (s : State) : Turn :=
  if !modeSupported s.lp.mode then .done (recordRefusal s (.refused .unsupportedMode))
  else match decode (fetchBytes s) s.lp.eax with
    | .ok (i, _) => .execute i s
    | .error e => .done (recordRefusal s (fetchStop s e))

/-- The turn of the processor in focus: none if its outcome is terminal (60_exceptions.md R106, R112,
70_reset_and_hazards.md R137). -/
def enclsTurn (l : RegLoad) (s : State) : Turn :=
  if s.lp.terminal then .done (.fault .lpHasNoFurtherStep) else fetchInstr (beginExecution l s)

/-- The next event of the run (70_reset_and_hazards.md R137). -/
def turn (s : State) : Turn :=
  match s.schedule with
  | [] => .done (.fault .runEnded)
  | .trackingProgress secsPa v :: rest => .done (.next (trackingProgress secsPa v { s with schedule := rest }))
  | .encls k l :: rest =>
    match focus k { s with schedule := rest } with
    | none => .done (.fault .noSuchProcessor)
    | some s' => enclsTurn l s'

/-- The state in which the very next step runs the ENCLS that a word of spec/opcode_table.json stands for: the bytes
of a bare ENCLS at pc, the word in EAX, a processor without a terminal outcome, and its turn next (assumption 5). -/
def placeTableWord (s : State) (nbits w : Nat) : State :=
  { s with
    lp := { s.lp with
      rax := (s.lp.rax.extractLsb' 32 32) ++ BitVec.ofNat 32 (w % 2 ^ nbits)
      outcome := none }
    text := s.text.writeBytes s.lp.pc.toNat enclsBytes
    schedule := .encls s.lp.id ⟨none, none⟩ :: s.schedule }

end Sys2Proof.Machine
end

