-- ==== Sys2Proof/Machine/Step.lean ====
section
/-! DEFINITION. One step of the machine: the next event of the run (70_reset_and_hazards.md R137). -/

namespace Sys2Proof.Machine

/-- One step: an environment step, a stop, or one atomic execution of the instruction fetched (20_memory.md R52), a
refused one recorded as the outcome of its processor. -/
def step (s : State) : Host.Outcome State Fault Refusal :=
  match Sys2Proof.Machine.turn s with
  | .done r => r
  | .execute i s' => Sys2Proof.Machine.recordRefusal s' (Sys2Proof.Machine.exec i s')

/-- The state whose next step fetches and runs the instruction of this table word. -/
def State.withFetchWord (s : State) (nbits w : Nat) : State := Sys2Proof.Machine.placeTableWord s nbits w

end Sys2Proof.Machine
end

