-- ==== Sys2Proof/Safety.lean ====
section
/-! DEFINITION. What claims are stated in: the conditions under which ETRACKC runs, the machine's invariant, and the
final states of a run. -/

namespace Sys2Proof

open Sys2Proof.Machine

/-- No refusal of S0 applies: a supported mode, the leaf number in EAX, SGXWellFormed, a page-aligned DS base in Prot32,
and room for the instruction and its successor (40_etrackc.md R71, R72). -/
structure Unrefused (s : State) : Prop where
  mode : s.lp.mode = .mode64 ∨ s.lp.mode = .prot32
  leaf : s.lp.rax.setWidth 32 = 0x11#32
  sgx : sgxWellFormed s.epc = true
  dsBase : s.lp.mode = .prot32 → pageAligned s.lp.ds.base = true
  room : s.lp.pc.toNat + s.cfg.enclsLen ≤ topAddress s.lp.mode

/-- S0 lets the execution through: no refusal and no model fault (40_etrackc.md R71, R72). -/
structure Admitted (s : State) : Prop extends Unrefused s where
  feature : s.cfg.featureEtrackc = true
  cpl : s.lp.cpl = 0

/-- The operand passes S1 to S3: it resolves to the EPC page `p` at the physical address `pa` (40_etrackc.md R73 to
R75). -/
structure OperandResolves (s : State) (pa : Word) (p : EpcPage) : Prop where
  admitted : Admitted s
  aligned : pageAligned (linearAddress s.lp) = true
  long : s.lp.mode = .mode64 → canonical s.cfg.laBits (linearAddress s.lp) = true
  segment : s.lp.mode = .prot32 →
    s.lp.ds.usable = true ∧ dsViolation s.lp.ds (effectiveAddress s.lp) s.cfg.access = false
  translated : translateAddress s.lp.translation s.draws.oraclePfec (linearAddress s.lp) s.cfg.access = .ok pa
  inEpc : s.epc.page? (pageKey pa) = some p

/-- The execution passes S4 to S6 and works on the SECS `q` at the physical address `a` (40_etrackc.md R76 to R78). -/
structure SecsReached (s : State) (a : Nat) (q : Secs) : Prop where
  page : ∃ pa p, OperandResolves s pa p ∧ p.valid = true ∧
    (((p.pt = .reg ∨ p.pt = .tcs ∨ p.pt = .trim) ∧ a = p.enclaveSecs.toNat) ∨ (p.pt = .secs ∧ a = pa.toNat))
  quiet : pageBeingModified s = false
  secs : ∃ sp, s.epc.page? a = some sp ∧ sp.secs = q

/-- The EPC of a machine: canonical, page aligned, within PA_BITS, its SECS fields within their widths, and
SGXWellFormed (10_state.md R23, R25, R30; 70_reset_and_hazards.md R131; assumption 32). -/
structure EpcInv (c : Config) (e : Epc) : Prop where
  sorted : Epc.sorted e
  aligned : ∀ x ∈ e, x.1 % 4096 = 0
  inRange : ∀ x ∈ e, x.1 < 2 ^ c.paBits
  tracking : ∀ x ∈ e, x.2.secs.tracking < 2 ^ c.trackingBits
  context : ∀ x ∈ e, x.2.secs.enclaveContext.toNat < 2 ^ c.enclaveContextBits
  sgx : sgxWellFormed e = true

/-- What holds of every logical processor: a supported mode, an aligned DS base in Prot32, and a pc within the
address space (70_reset_and_hazards.md R131). -/
structure LpInv (p : LP) : Prop where
  mode : modeSupported p.mode = true
  dsBase : p.mode = .prot32 → pageAligned p.ds.base = true
  pc : p.pc.toNat ≤ topAddress p.mode

/-- The machine's invariant. -/
structure Inv (s : State) : Prop where
  cfg : s.cfg.wellFormed = true
  text : Memory.wf s.text
  epc : EpcInv s.cfg s.epc
  lps : ∀ p ∈ s.lp :: s.others, LpInv p
  ids : ((s.lp :: s.others).map LP.id).Nodup

/-- A launch state: the premises of 70_reset_and_hazards.md R131, for every logical processor. The optional premise
NoConcurrentSGX is the parameter of that name. -/
structure Launch (s : State) : Prop where
  /-- ModeSupported. -/
  mode : ∀ p ∈ s.lp :: s.others, modeSupported p.mode = true
  /-- FeaturePresent. -/
  feature : s.cfg.featureEtrackc = true
  /-- SGXWellFormed. -/
  sgx : sgxWellFormed s.epc = true
  /-- EPCPageAligned. -/
  aligned : ∀ x ∈ s.epc, x.1 % 4096 = 0
  /-- DSBaseAligned. -/
  dsBase : ∀ p ∈ s.lp :: s.others, p.mode = .prot32 → pageAligned p.ds.base = true
  /-- PcRoom. -/
  room : ∀ p ∈ s.lp :: s.others, p.pc.toNat + s.cfg.enclsLen ≤ topAddress p.mode
  /-- NoFaultRecorded. -/
  noFault : ∀ p ∈ s.lp :: s.others, p.terminal = false

/-- A final state of a run: the schedule is exhausted and no processor has a terminal outcome (70_reset_and_hazards.md
R137). -/
def Final (s : State) : Prop := s.schedule = [] ∧ ∀ p ∈ s.lp :: s.others, p.terminal = false

/-- The state with other values in the six flags of the executing processor. -/
def withFlags (s : State) (f : Flags) : State := s.setLp { s.lp with flags := f }

end Sys2Proof
end

