-- ==== Sys2Proof/Certificates/Slice0/Obligations.lean ====
section
/-! DEFINITION. The statements for the provers. Where a clause rests on a decision of the spec (D<n> of
92_eei_decisions.md) or on a row of the assumption log, the docstring says so. -/

open Sys2Proof Sys2Proof.Machine

/-! ### Reset, the invariant, the step -/

/-- The model's launch state (assumptions 1 to 7) meets the invariant. -/
def Obligations.ResetMeetsMachineInvariant : Prop := Inv State.reset

/-- The model's launch state (assumptions 1 to 7, 36) meets the launch premises (R131). -/
def Obligations.ResetIsALaunchState : Prop := Launch State.reset

/-- Every step keeps the invariant: canonical program text and EPC, SGXWellFormed, field widths, supported modes, pc
within the address space, distinct processor names (10_state.md R30; assumptions 28, 32, 34). -/
def Obligations.StepKeepsMachineInvariant : Prop :=
  ∀ s t : State, Inv s → step s = .next t → Inv t

/-- A step whose event names the processor in focus runs the instruction its bytes decode to, after the harness's
register values are placed and fresh draws are taken. All that is added after exec is that a refusal becomes the terminal
outcome of that processor, with nothing else written (R137; assumptions 19, 28, 39). -/
def Obligations.StepRunsDecodedInstruction : Prop :=
  ∀ (s s' : State) (k : Nat) (l : RegLoad) (rest : List Event) (i : Instr) (tail : List Byte),
    s.schedule = .encls k l :: rest →
    focus k { s with schedule := rest } = some s' →
    s'.lp.terminal = false →
    modeSupported s'.lp.mode = true →
    decode (fetchBytes (beginExecution l s')) (beginExecution l s').lp.eax = .ok (i, tail) →
    let b := beginExecution l s'
    ((∀ r, exec i b ≠ .refused r) → step s = exec i b) ∧
    ∀ r, exec i b = .refused r → step s = .next { b with lp := { b.lp with outcome := some (.refused r) } }

/-- The processor named by the event becomes the one whose turn it is, and the processors stay the same ones; it is
found exactly when the machine has a processor of that name (assumption 28). -/
def Obligations.FocusSelectsTheNamedProcessor : Prop :=
  ∀ (s : State) (k : Nat),
    ((∃ p ∈ s.lp :: s.others, p.id = k) ↔ ∃ t, focus k s = some t) ∧
    ∀ t, focus k s = some t →
      t.lp.id = k ∧ (t.lp :: t.others).Perm (s.lp :: s.others) ∧
      t = { s with lp := t.lp, others := t.others }

/-- Before an execution the harness changes RAX and RCX alone, and the draws become the free values of the counter
(R137; assumption 19). -/
def Obligations.HarnessPlacesRegistersOnly : Prop :=
  ∀ (s : State) (l : RegLoad),
    beginExecution l s =
      { s with
        lp := { s.lp with rax := l.rax.getD s.lp.rax, rcx := l.rcx.getD s.lp.rcx }
        draws := freeDraws s.drawCount
        drawCount := s.drawCount + 1 }

/-- The environment step sets TRACKING of one SECS, cut to the field's width, and changes nothing else but the schedule
(R113, D14; assumption 23). -/
def Obligations.TrackingProgressSetsTrackingOnly : Prop :=
  ∀ (s : State) (a v : Nat) (rest : List Event),
    s.schedule = .trackingProgress a v :: rest →
    ∃ t, step s = .next t ∧
      (∀ p, s.epc.page? a = some p →
        t.epc.page? a = some { p with secs := { p.secs with tracking := v % 2 ^ s.cfg.trackingBits } }) ∧
      (∀ b, b ≠ a → t.epc.page? b = s.epc.page? b) ∧
      t.epc.map Prod.fst = s.epc.map Prod.fst ∧
      t = { s with schedule := rest, epc := t.epc }

/-- A run whose schedule is exhausted takes no further step (R137; assumption 31). -/
def Obligations.ExhaustedScheduleEndsTheRun : Prop :=
  ∀ s : State, s.schedule = [] → step s = .fault .runEnded

/-- A processor with an exception, a VM exit, a model fault or a refusal has no further step: an event that names it is
stuck (R106, R107, R112, R137; D13, D17, D28; assumptions 26, 39). -/
def Obligations.TerminalProcessorHasNoFurtherStep : Prop :=
  ∀ (s s' : State) (k : Nat) (l : RegLoad) (rest : List Event) (o : LpOutcome),
    s.schedule = .encls k l :: rest →
    focus k { s with schedule := rest } = some s' →
    s'.lp.outcome = some o → (∀ c, o ≠ .completed c) →
    step s = .fault .lpHasNoFurtherStep

/-- A processor with a terminal outcome keeps its whole private state through every step of the machine (R106, R107;
D17). -/
def Obligations.TerminalProcessorNeverChanges : Prop :=
  ∀ (s t : State) (p : LP), p ∈ s.lp :: s.others → p.terminal = true → step s = .next t → p ∈ t.lp :: t.others

/-- A terminal outcome, a refusal included, stops one processor only: after it, the event of another processor finds that
processor and the shared state as they were, so it executes as it would have (R137; D28; assumption 39). -/
def Obligations.OtherProcessorsGoOnAfterATerminalOutcome : Prop :=
  ∀ (s t : State) (p : LP) (k j : Nat) (l m : RegLoad) (rest : List Event),
    ((s.lp :: s.others).map LP.id).Nodup →
    s.schedule = .encls k l :: .encls j m :: rest → step s = .next t → t.lp.terminal = true →
    p ∈ s.lp :: s.others → p.id = j → j ≠ k →
    t.schedule = .encls j m :: rest ∧
    ∃ u, focus j { t with schedule := rest } = some u ∧ u.lp = p ∧ u.cfg = s.cfg ∧ u.epc = s.epc ∧ u.text = s.text

/-- In every step at most one processor changes: the private state of the others is as before (R10). -/
def Obligations.OtherProcessorsAreUntouched : Prop :=
  ∀ s t : State, step s = .next t →
    ∃ p others, (p :: others).Perm (s.lp :: s.others) ∧ t.others = others ∧ t.lp.id = p.id ∧
      t.lp.mode = p.mode ∧ t.lp.cpl = p.cpl ∧ t.lp.vmxNonRoot = p.vmxNonRoot

/-- No step changes the parameters, the program text, the EPC, or any EPCM entry (R23, R24, R54; D19). -/
def Obligations.StepKeepsProgramTextAndEpcm : Prop :=
  ∀ s t : State, step s = .next t →
    t.cfg = s.cfg ∧
    (∀ a, Memory.read t.text a = Memory.read s.text a) ∧
    ∀ a, (t.epc.page? a).map (fun p => (p.valid, p.pt, p.enclaveSecs, p.secs.enclaveContext)) =
      (s.epc.page? a).map (fun p => (p.valid, p.pt, p.enclaveSecs, p.secs.enclaveContext))

/-! ### Encoding -/

/-- A few words of the spec's encoding: EAX = 11H selects ETRACKC and other values do not, on the bytes of ENCLS and
behind a prefix (R60, R65, R66; the bytes are assumption 9). -/
def Obligations.SpecWordsDecode : Prop :=
  decodeTableWord 32 0x11 = some .etrackc ∧
  decodeTableWord 32 0x0C = none ∧
  decodeTableWord 32 0x111 = none ∧
  decode [0x0F, 0x01, 0xCF, 0x90] 0x11 = .ok (.etrackc, [0x90]) ∧
  decode [0x0F, 0x01, 0xCF] 0x0C = .error (.otherLeaf 0x0C) ∧
  decode [0x66, 0x0F, 0x01, 0xCF] 0x11 = .error .prefixed ∧
  decode [0x90, 0x0F, 0x01, 0xCF] 0x11 = .error .notEncls

/-- Decoding is exact: it answers an instruction on the encoded bytes of a well-formed instruction followed by
anything, with the encoded selector, and on nothing else (R60; assumption 9). -/
def Obligations.DecodeAcceptsExactlyTheEncodings : Prop :=
  ∀ (bytes : List Byte) (eax : Selector) (i : Instr) (rest : List Byte),
    decode bytes eax = .ok (i, rest) ↔
      i.wellFormed = true ∧ bytes = encodeBytes i ++ rest ∧ eax = encodeSelector i

/-- Encode, place, fetch and decode agree: a table word placed at a supported processor with room at its pc is fetched
as ETRACKC exactly when the word's low 32 bits are 11H, and the bytes fetched begin with the encoding. It executes in the
state in which the processor's execution begins, the placed event consumed; another word is refused as that leaf, which is
recorded (R60, D5; assumptions 5, 9, 37, 39). -/
def Obligations.PlacedWordIsFetched : Prop :=
  ∀ (s : State) (w : Nat),
    modeSupported s.lp.mode = true →
    s.lp.pc.toNat + 2 ≤ topAddress s.lp.mode →
    (∃ tail, fetchBytes (s.withFetchWord 32 w) = encodeBytes .etrackc ++ tail) ∧
    let b := beginExecution ⟨none, none⟩ { s.withFetchWord 32 w with schedule := s.schedule }
    (w % 2 ^ 32 = 0x11 →
      b.lp.eax = 0x11#32 ∧
      ((∀ r, exec .etrackc b ≠ .refused r) → step (s.withFetchWord 32 w) = exec .etrackc b) ∧
      ∀ r, exec .etrackc b = .refused r →
        step (s.withFetchWord 32 w) = .next { b with lp := { b.lp with outcome := some (.refused r) } }) ∧
    (w % 2 ^ 32 ≠ 0x11 →
      step (s.withFetchWord 32 w) =
        .next { b with lp := { b.lp with outcome := some (.refused (.otherLeaf (BitVec.ofNat 32 w))) } })

/-- No limit stands on the length of what is fetched: a byte at any distance from pc within the address space is fetched,
if it and all bytes before it are listed (R66 gives none; assumptions 33, 38). -/
def Obligations.FetchReadsEveryListedByte : Prop :=
  ∀ (s : State) (n : Nat), s.lp.pc.toNat + n ≤ topAddress s.lp.mode →
    (∀ j ≤ n, (Memory.read s.text (s.lp.pc.toNat + j)).isSome = true) →
    (fetchBytes s)[n]? = Memory.read s.text (s.lp.pc.toNat + n)

/-- ENCLS behind any number of one-byte prefixes, and under a two- or three-byte VEX prefix, decodes to the reason
Prefixed, whatever EAX holds (R66; D23; the bytes are assumption 9). -/
def Obligations.PrefixesOfAnyLengthAreSeen : Prop :=
  ∀ (pre rest : List Byte) (eax : Selector), (∀ x ∈ pre, isPrefix x = true) →
    (pre ≠ [] → decode (pre ++ encodeBytes .etrackc ++ rest) eax = .error .prefixed) ∧
    (∀ m, decode (pre ++ [0xC5, m, 0x01, 0xCF] ++ rest) eax = .error .prefixed) ∧
    ∀ m n, decode (pre ++ [0xC4, m, n, 0x01, 0xCF] ++ rest) eax = .error .prefixed

/-! ### S0: refusals and model faults -/

/-- The first two refusals of S0 in a step: an unsupported mode comes first; then a prefixed form is refused as Prefixed
whatever EAX holds. The refusal is the terminal outcome of the processor, and nothing else is written (R71, R66; decisions
D4, D23; assumptions 38, 39). -/
def Obligations.PrefixedFormIsRefused : Prop :=
  ∀ (s s' : State) (k : Nat) (l : RegLoad) (rest : List Event),
    s.schedule = .encls k l :: rest →
    focus k { s with schedule := rest } = some s' →
    s'.lp.terminal = false →
    let b := beginExecution l s'
    (modeSupported b.lp.mode = false →
      step s = .next { b with lp := { b.lp with outcome := some (.refused .unsupportedMode) } }) ∧
    (modeSupported b.lp.mode = true → ∀ eax, decode (fetchBytes b) eax = .error .prefixed →
      step s = .next { b with lp := { b.lp with outcome := some (.refused .prefixed) } })

/-- The refusals of S0 that the meaning makes, in their order, the first that applies winning. S0's refusal of a prefix
stands in the decoder, between the first and the second (PrefixedFormIsRefused) (R71, R72; decisions D4, D22, D15, D7, D2;
assumption 38). -/
def Obligations.RefusalsComeInOrder : Prop :=
  ∀ s : State,
    if s.lp.mode ≠ .mode64 ∧ s.lp.mode ≠ .prot32 then exec .etrackc s = .refused .unsupportedMode
    else if s.lp.rax.setWidth 32 ≠ 0x11#32 then exec .etrackc s = .refused (.otherLeaf (s.lp.rax.setWidth 32))
    else if sgxWellFormed s.epc = false then exec .etrackc s = .refused .sgxNotWellFormed
    else if s.lp.mode = .prot32 ∧ s.lp.ds.base.setWidth 12 ≠ 0#12 then
      exec .etrackc s = .refused .dsBaseNotPageAligned
    else if s.lp.pc.toNat + s.cfg.enclsLen > (if s.lp.mode = .mode64 then 2 ^ 64 - 1 else 2 ^ 32 - 1) then
      exec .etrackc s = .refused .pcWrap
    else ∃ t, exec .etrackc s = .next t

/-- A launched processor is never refused for a launch premise and never meets LeafUnavailable: with 11H in EAX its first
ETRACKC answers a next state (R131). -/
def Obligations.LaunchedProcessorRunsEtrackc : Prop :=
  ∀ (s s' : State) (k : Nat) (l : RegLoad), Launch s → focus k s = some s' →
    (l.rax.getD s'.lp.rax).setWidth 32 = 0x11#32 →
    ∃ t, exec .etrackc (beginExecution l s') = .next t ∧
      ∀ m, t.lp.outcome ≠ some (.modelFault .leafUnavailable m)

/-- Without the feature flag the execution ends in LeafUnavailable, whatever the privilege level, and nothing else
changes (R72, R115; decision D4). -/
def Obligations.MissingFeatureIsLeafUnavailable : Prop :=
  ∀ s : State, Unrefused s → s.cfg.featureEtrackc = false →
    exec .etrackc s =
      .next { s with lp := { s.lp with outcome := some (.modelFault .leafUnavailable s.cfg.cplFault) } }

/-- At a privilege level other than 0 the execution ends in NotCPL0 before every check of the operand, and nothing else
changes (R72, R111, R115; decision D3). -/
def Obligations.UserModeIsNotCPL0 : Prop :=
  ∀ s : State, Unrefused s → s.cfg.featureEtrackc = true → s.lp.cpl ≠ 0 →
    exec .etrackc s =
      .next { s with lp := { s.lp with outcome := some (.modelFault .notCPL0 s.cfg.cplFault) } }

/-- "unprivileged code learns nothing about the EPC from ETRACKC" (R72, D3): at a privilege level other than 0 the
executing processor after the execution is the same for any two well-formed EPCs, and any two draws. -/
def Obligations.UnprivilegedCodeLearnsNothingOfTheEpc : Prop :=
  ∀ (s t : State) (e : Epc) (d : Draws), s.lp.cpl ≠ 0 → sgxWellFormed s.epc = true → sgxWellFormed e = true →
    exec .etrackc s = .next t → exec .etrackc { s with epc := e, draws := d } = .next { t with epc := e, draws := d }

/-! ### S1 to S3: the operand -/

/-- R73: an operand with la[11:0] not 0 raises #GP(0), whatever else is wrong with it, and nothing is written; with the
corner values of RCX the rule lists, 0, FFFH, 1 and 1000H, and the two of protected mode. -/
def Obligations.MisalignedOperandRaisesGP : Prop :=
  (∀ s : State, Admitted s → (linearAddress s.lp).setWidth 12 ≠ 0#12 →
    exec .etrackc s = .next { s with lp := { s.lp with outcome := some (.exception (.gp 0)) } }) ∧
  (∀ p : LP, p.mode = .mode64 →
    (p.rcx = 0 ∨ p.rcx = 0x1000 → pageAligned (linearAddress p) = true) ∧
    (p.rcx = 0xFFF ∨ p.rcx = 1 → pageAligned (linearAddress p) = false)) ∧
  (∀ p : LP, p.mode = .prot32 → pageAligned p.ds.base = true →
    (p.rcx = 0x0000000100000800 → effectiveAddress p = 0x800 ∧ pageAligned (linearAddress p) = false) ∧
    (p.rcx = 0xFFFFFFFF00001000 → effectiveAddress p = 0x1000 ∧ pageAligned (linearAddress p) = true))

/-- In protected mode #GP is raised in exactly three cases, with error code 0 (R101). That a DS violation or an unusable DS
is reported before a translation fault is decision D8 (assumption 15). -/
def Obligations.ProtectedModeGPCases : Prop :=
  ∀ (s : State) (c : Word), Admitted s → s.lp.mode = .prot32 →
    ((∃ t, exec .etrackc s = .next t ∧ t.lp.outcome = some (.exception (.gp c))) ↔
      c = 0 ∧ (dsViolation s.lp.ds (effectiveAddress s.lp) s.cfg.access = true ∨ s.lp.ds.usable = false ∨
        (linearAddress s.lp).setWidth 12 ≠ 0#12))

/-- In 64-bit mode #GP is raised in exactly two cases, with error code 0; DS plays no part (R102). That a non-canonical
address is reported before a translation fault is decision D8 (assumption 15). -/
def Obligations.LongModeGPCases : Prop :=
  ∀ (s : State) (c : Word), Admitted s → s.lp.mode = .mode64 →
    ((∃ t, exec .etrackc s = .next t ∧ t.lp.outcome = some (.exception (.gp c))) ↔
      c = 0 ∧ (canonical s.cfg.laBits (linearAddress s.lp) = false ∨ (linearAddress s.lp).setWidth 12 ≠ 0#12))

/-- Canonical form: bits 63 down to LA_BITS - 1 are all equal (R43; the definition is general knowledge G10). -/
def Obligations.CanonicalMeansEqualTopBits : Prop :=
  ∀ (n : Nat) (la : Word), 1 ≤ n → n ≤ 64 →
    (canonical n la = true ↔ ∀ i, n - 1 ≤ i → i ≤ 63 → la.getLsbD i = la.getLsbD 63)

/-- The linear address: RCX in 64-bit mode; in protected mode the low 32 bits of DS.base plus RCX[31:0] (R41; decisions
D6, D7). -/
def Obligations.LinearAddressOfTheOperand : Prop :=
  ∀ p : LP, (p.mode = .mode64 → linearAddress p = p.rcx) ∧
    (p.mode = .prot32 → (linearAddress p).toNat = (p.ds.base.toNat + p.rcx.toNat % 2 ^ 32) % 2 ^ 32)

/-- An aligned operand that passes the segment and canonical checks, and whose translation faults, raises #PF with the
linear address and the oracle's error code, and nothing is written (R45, R75, R103; faulting address by derivation). -/
def Obligations.TranslationFaultRaisesPF : Prop :=
  ∀ (s : State) (pfec : Word), Admitted s → pageAligned (linearAddress s.lp) = true →
    (s.lp.mode = .mode64 → canonical s.cfg.laBits (linearAddress s.lp) = true) →
    (s.lp.mode = .prot32 → s.lp.ds.usable = true ∧
      dsViolation s.lp.ds (effectiveAddress s.lp) s.cfg.access = false) →
    translateAddress s.lp.translation s.draws.oraclePfec (linearAddress s.lp) s.cfg.access = .pageFault pfec →
    exec .etrackc s =
      .next { s with lp := { s.lp with outcome := some (.exception (.pf (linearAddress s.lp) pfec)) } }

/-- An operand that translates to an address outside the EPC raises #PF with the linear address and an error code whose
PFEC.SGX bit is set, and nothing is written; the other bits are drawn (R46, R75, R103; decision D10). -/
def Obligations.OperandOutsideEpcRaisesPF : Prop :=
  ∀ (s : State) (pa : Word), Admitted s → pageAligned (linearAddress s.lp) = true →
    (s.lp.mode = .mode64 → canonical s.cfg.laBits (linearAddress s.lp) = true) →
    (s.lp.mode = .prot32 → s.lp.ds.usable = true ∧
      dsViolation s.lp.ds (effectiveAddress s.lp) s.cfg.access = false) →
    translateAddress s.lp.translation s.draws.oraclePfec (linearAddress s.lp) s.cfg.access = .ok pa →
    s.epc.page? (pageKey pa) = none →
    ∃ pfec, pfec &&& s.cfg.pfecSgx = s.cfg.pfecSgx ∧
      pfec &&& ~~~s.cfg.pfecSgx = s.draws.pfecBits &&& ~~~s.cfg.pfecSgx ∧
      exec .etrackc s =
        .next { s with lp := { s.lp with outcome := some (.exception (.pf (linearAddress s.lp) pfec)) } }

/-- Translate keeps the page offset: pa[11:0] = la[11:0] (R45; assumption 17). -/
def Obligations.TranslationKeepsThePageOffset : Prop :=
  ∀ (table : List Mapping) (unlisted la pa : Word) (kind : AccessKind),
    translateAddress table unlisted la kind = .ok pa → pa.setWidth 12 = la.setWidth 12

/-! ### S4 to S9: completion -/

/-- S4: a page being modified gives code 7, valid or not and in any VMX mode: ZF set, CF cleared; PF, AF, OF and SF
cleared, or drawn under CONFLICT_PATH_FLAGS = Draw (R76; decisions D2, D12). -/
def Obligations.PageBeingModifiedReturnsConflict : Prop :=
  ∀ (s : State) (pa : Word) (p : EpcPage), OperandResolves s pa p → pageBeingModified s = true →
    exec .etrackc s = .next { s with lp := { s.lp with
      rax := 7
      flags := if s.cfg.conflictPathFlags = .cleared then ⟨true, false, false, false, false, false⟩
               else ⟨true, false, s.draws.pf, s.draws.af, s.draws.of, s.draws.sf⟩
      pc := s.lp.pc + BitVec.ofNat 64 s.cfg.enclsLen
      outcome := some (.completed .epcPageConflict) } }

/-- R77: an invalid page gives code 6 with ZF set and CF, PF, AF, OF and SF cleared, no exception, whatever its stale PT
and ENCLAVESECS hold. -/
def Obligations.InvalidPageReturnsPgInvld : Prop :=
  ∀ (s : State) (pa : Word) (p : EpcPage), OperandResolves s pa p → pageBeingModified s = false → p.valid = false →
    ∃ t, exec .etrackc s = .next t ∧ t.lp.rax = 6 ∧ t.lp.flags = ⟨true, false, false, false, false, false⟩ ∧
      t.lp.outcome = some (.completed .pgInvld) ∧
      ∀ (pt : PageType) (es : Word) (s' : State),
        OperandResolves s' pa { p with pt := pt, enclaveSecs := es } → { s' with epc := s.epc } = s →
        exec .etrackc s' = .next { t with epc := s'.epc }

/-- S6: what the page's type leads to. Any type but the four named gives code 27 with CF set and ZF cleared, whatever
the draws of S7 and the VMX mode; PT_REG, PT_TCS and PT_TRIM lead to the SECS at ENCLAVESECS, a valid PT_SECS page;
PT_SECS leads to the page itself (R78; decisions D2, D15). -/
def Obligations.PageTypeFindsTheSecs : Prop :=
  ∀ (s : State) (pa : Word) (p : EpcPage), OperandResolves s pa p → pageBeingModified s = false → p.valid = true →
    (∀ n, p.pt = .other n →
      exec .etrackc s = .next { s with lp := { s.lp with
        rax := 27, flags := ⟨false, true, false, false, false, false⟩
        pc := s.lp.pc + BitVec.ofNat 64 s.cfg.enclsLen, outcome := some (.completed .trackNotRequired) } }) ∧
    (p.pt = .reg ∨ p.pt = .tcs ∨ p.pt = .trim →
      ∃ sp, s.epc.page? p.enclaveSecs.toNat = some sp ∧ sp.valid = true ∧ sp.pt = .secs ∧
        exec .etrackc s = .next (etrackcOnSecs p.enclaveSecs.toNat sp.secs s)) ∧
    (p.pt = .secs → exec .etrackc s = .next (etrackcOnSecs pa.toNat p.secs s))

/-- S7 outside the VMX condition: a busy tracking facility gives code 7, whatever TRACKING holds (R79; decision D2). -/
def Obligations.BusyFacilityReturnsConflict : Prop :=
  ∀ (s : State) (a : Nat) (q : Secs), SecsReached s a q → trackingFacilityBusy s = true →
    (s.lp.vmxNonRoot && s.lp.vmcs.enableEpcVirtualizationExtensions) = false →
    exec .etrackc s = .next { s with lp := { s.lp with
      rax := 7, flags := ⟨true, false, false, false, false, false⟩
      pc := s.lp.pc + BitVec.ofNat 64 s.cfg.enclsLen, outcome := some (.completed .epcPageConflict) } }

/-- S8 outside the VMX condition: TRACKING not 0 gives code 17 (R80; decision D2). -/
def Obligations.IncompleteCycleReturnsPrevTrkIncmpl : Prop :=
  ∀ (s : State) (a : Nat) (q : Secs), SecsReached s a q → trackingFacilityBusy s = false → q.tracking ≠ 0 →
    (s.lp.vmxNonRoot && s.lp.vmcs.enableEpcVirtualizationExtensions) = false →
    exec .etrackc s = .next { s with lp := { s.lp with
      rax := 17, flags := ⟨true, false, false, false, false, false⟩
      pc := s.lp.pc + BitVec.ofNat 64 s.cfg.enclsLen, outcome := some (.completed .prevTrkIncmpl) } }

/-- S7 and S8 under the VMX condition: a VM exit that writes the five VMCS fields, with the qualification code of its
cause, and leaves RAX, the flags, pc and the shared state as they were (R109; decision D13). -/
def Obligations.TrackingConflictExitsToTheMonitor : Prop :=
  ∀ (s : State) (a : Nat) (q : Secs), SecsReached s a q →
    s.lp.vmxNonRoot = true → s.lp.vmcs.enableEpcVirtualizationExtensions = true →
    (trackingFacilityBusy s = true ∨ q.tracking ≠ 0) →
    ∃ code, code = (if trackingFacilityBusy s = true then s.cfg.qualTrackingResourceConflict
                    else s.cfg.qualTrackingReferenceConflict) ∧
      exec .etrackc s = .next { s with lp := { s.lp with
        vmcs := { s.lp.vmcs with
          exitReason := s.cfg.exitReasonSgxConflict
          exitQualificationCode := code
          exitQualificationError := 0
          guestPhysicalAddress := q.enclaveContext
          guestLinearAddress := 0 }
        outcome := some (.vmExit ⟨s.cfg.exitReasonSgxConflict, code, 0, q.enclaveContext, 0⟩) } }

/-- S9: a free facility and a complete previous cycle give code 0 with all six flags cleared, StartTrackingCycle applied
to the TrackState of that SECS, TRACKING drawn, and no other page changed (R81; decisions D2, D14). -/
def Obligations.SuccessStartsATrackingCycle : Prop :=
  ∀ (s : State) (a : Nat) (q : Secs), SecsReached s a q → trackingFacilityBusy s = false → q.tracking = 0 →
    ∃ t, exec .etrackc s = .next t ∧
      t = { s with epc := t.epc, lp := { s.lp with
        rax := 0, flags := ⟨false, false, false, false, false, false⟩
        pc := s.lp.pc + BitVec.ofNat 64 s.cfg.enclsLen, outcome := some (.completed .noError) } } ∧
      (t.epc.page? a).map EpcPage.secs = some { q with
        trackState := Config.startTrackingCycle q.trackState
        tracking := s.draws.tracking % 2 ^ s.cfg.trackingBits } ∧
      (∀ b, b ≠ a → t.epc.page? b = s.epc.page? b)

/-- Two starts on one SECS (R47, R81, R52; decision D14): after a success, an execution that sees the EPC it left and reaches
the same SECS with a free facility, outside the VMX condition, returns 0 if the TRACKING drawn by the first is 0 and 17 if it
is not; nothing else decides. -/
def Obligations.SecondStartDependsOnTheDraw : Prop :=
  ∀ (s t u : State) (a : Nat) (q q' : Secs), SecsReached s a q → exec .etrackc s = .next t →
    t.lp.outcome = some (.completed .noError) → u.epc = t.epc → SecsReached u a q' →
    trackingFacilityBusy u = false → (u.lp.vmxNonRoot && u.lp.vmcs.enableEpcVirtualizationExtensions) = false →
    ∃ v, exec .etrackc u = .next v ∧
      (s.draws.tracking % 2 ^ s.cfg.trackingBits = 0 → v.lp.outcome = some (.completed .noError)) ∧
      (s.draws.tracking % 2 ^ s.cfg.trackingBits ≠ 0 → v.lp.outcome = some (.completed .prevTrkIncmpl))

/-- The boot requirements suffice (R132): with every check passed, no conflict drawn and TRACKING 0, the execution
returns 0; and with no concurrent SGX agent (NoConcurrentSGX) no draw need be assumed (D11). -/
def Obligations.BootRequirementsSuffice : Prop :=
  ∀ (s : State) (pa : Word) (p : EpcPage), OperandResolves s pa p → s.cfg.noConcurrentSGX = true →
    p.valid = true →
    (∀ sp, s.epc.page? (if p.pt = .secs then pa.toNat else p.enclaveSecs.toNat) = some sp → sp.secs.tracking = 0) →
    (∀ n, p.pt ≠ .other n) →
    ∃ t, exec .etrackc s = .next t ∧ t.lp.outcome = some (.completed .noError) ∧ t.lp.rax = 0

/-- The whole Operation as one chain of cases from S4 on, in its order (R71, R104 items 7 to 12; decision D13). -/
def Obligations.OperationFollowsItsOrder : Prop :=
  ∀ (s : State) (pa : Word) (p : EpcPage), OperandResolves s pa p →
    ∃ t, exec .etrackc s = .next t ∧
      let vmx := s.lp.vmxNonRoot && s.lp.vmcs.enableEpcVirtualizationExtensions
      let secs := s.epc.page? (if p.pt = .secs then pa.toNat else p.enclaveSecs.toNat)
      if pageBeingModified s = true then t.lp.outcome = some (.completed .epcPageConflict)
      else if p.valid = false then t.lp.outcome = some (.completed .pgInvld)
      else if p.pt ≠ .reg ∧ p.pt ≠ .tcs ∧ p.pt ≠ .trim ∧ p.pt ≠ .secs then t.lp.outcome = some (.completed .trackNotRequired)
      else ∃ sp, secs = some sp ∧
        if trackingFacilityBusy s = true then
          if vmx = true then
            t.lp.outcome = some (.vmExit ⟨s.cfg.exitReasonSgxConflict, s.cfg.qualTrackingResourceConflict, 0,
              sp.secs.enclaveContext, 0⟩)
          else t.lp.outcome = some (.completed .epcPageConflict)
        else if sp.secs.tracking ≠ 0 then
          if vmx = true then
            t.lp.outcome = some (.vmExit ⟨s.cfg.exitReasonSgxConflict, s.cfg.qualTrackingReferenceConflict, 0,
              sp.secs.enclaveContext, 0⟩)
          else t.lp.outcome = some (.completed .prevTrkIncmpl)
        else t.lp.outcome = some (.completed .noError)

/-! ### What every execution does and leaves -/

/-- R82: every completing path clears PF, AF, OF and SF, whatever they held and whatever the return code; the S4 path
is R76's own. -/
def Obligations.CompletionClearsFourFlags : Prop :=
  ∀ (s t : State) (c : ReturnCode), exec .etrackc s = .next t → t.lp.outcome = some (.completed c) →
    pageBeingModified s = false →
    t.lp.flags.pf = false ∧ t.lp.flags.af = false ∧ t.lp.flags.of = false ∧ t.lp.flags.sf = false

/-- Under the default CONFLICT_PATH_FLAGS = Cleared every completing path, S4 included, clears PF, AF, OF and SF. That S4
does is decision D12, the model's choice (assumption 20, unsafe). -/
def Obligations.ClearedParameterClearsFourFlags : Prop :=
  ∀ (s t : State) (c : ReturnCode), s.cfg.conflictPathFlags = .cleared → exec .etrackc s = .next t →
    t.lp.outcome = some (.completed c) →
    t.lp.flags.pf = false ∧ t.lp.flags.af = false ∧ t.lp.flags.of = false ∧ t.lp.flags.sf = false

/-- The laws of the return codes: RAX is 0, 6, 7, 17 or 27; ZF is set exactly on 6, 7 and 17, CF exactly on 27, both
clear exactly on 0; and every execution that is not refused has an outcome (R83; derived there). -/
def Obligations.ReturnCodesAndFlagsAgree : Prop :=
  ∀ s t : State, exec .etrackc s = .next t →
    ∃ o, t.lp.outcome = some o ∧ ∀ c, o = .completed c →
      t.lp.rax ∈ ([0, 6, 7, 17, 27] : List Word) ∧
      (t.lp.flags.zf = true ↔ t.lp.rax = 6 ∨ t.lp.rax = 7 ∨ t.lp.rax = 17) ∧
      (t.lp.flags.cf = true ↔ t.lp.rax = 27) ∧
      ((t.lp.flags.zf = false ∧ t.lp.flags.cf = false) ↔ t.lp.rax = 0)

/-- The frame of ETRACKC: RCX, the other general registers, the other RFLAGS bits, CPL, MODE, DS, the VMX mode and control, the
translation, the VMCS but on a VM exit, and the other processors are unchanged, and so are the parameters, every byte of
the program text, the EPC, the EPCM, ENCLAVECONTEXT, the schedule and the draws. TRACKING and TrackState change on a
completion with code 0 only, and then of the SECS of the operand only (R12, R13, R16, R24, R28, R47; decisions D24, D14). -/
def Obligations.EtrackcFrame : Prop :=
  ∀ s t : State, exec .etrackc s = .next t →
    t = { s with epc := t.epc, lp := { s.lp with
      rax := t.lp.rax, flags := t.lp.flags, pc := t.lp.pc, outcome := t.lp.outcome
      vmcs := { t.lp.vmcs with
        enableEpcVirtualizationExtensions := s.lp.vmcs.enableEpcVirtualizationExtensions } } } ∧
    ((∀ x, t.lp.outcome ≠ some (.vmExit x)) → t.lp.vmcs = s.lp.vmcs) ∧
    (∀ a, Memory.read t.text a = Memory.read s.text a) ∧
    t.epc.map (fun x => (x.1, x.2.valid, x.2.pt, x.2.enclaveSecs, x.2.secs.enclaveContext)) =
      s.epc.map (fun x => (x.1, x.2.valid, x.2.pt, x.2.enclaveSecs, x.2.secs.enclaveContext)) ∧
    (t.lp.outcome ≠ some (.completed .noError) → t.epc = s.epc) ∧
    (t.lp.outcome = some (.completed .noError) →
      (∃ pa p a, OperandResolves s pa p ∧ targetSecs pa p = some a) ∧
      ∀ pa p a, OperandResolves s pa p → targetSecs pa p = some a → ∀ b, b ≠ a → t.epc.page? b = s.epc.page? b)

/-- Nothing is written before a raise: on every outcome but Completed, RAX, the flags, pc and the whole shared state are
as before, and the VMCS too unless the outcome is a VM exit (R105; derived there, and decision D13). -/
def Obligations.NothingIsWrittenBeforeARaise : Prop :=
  ∀ (s t : State) (o : LpOutcome), exec .etrackc s = .next t → t.lp.outcome = some o → (∀ c, o ≠ .completed c) →
    t = { s with lp := { s.lp with outcome := some o, vmcs := t.lp.vmcs } } ∧
    ((∀ x, o ≠ .vmExit x) → t.lp.vmcs = s.lp.vmcs)

/-- The instruction pointer: advanced by ENCLS_LEN on every completion, never wrapping, and unchanged on every other
outcome (R84; decision D2). -/
def Obligations.InstructionPointerAdvances : Prop :=
  ∀ s t : State, exec .etrackc s = .next t →
    (∀ c, t.lp.outcome = some (.completed c) → t.lp.pc.toNat = s.lp.pc.toNat + s.cfg.enclsLen) ∧
    ((∀ c, t.lp.outcome ≠ some (.completed c)) → t.lp.pc = s.lp.pc)

/-- Only success changes the tracking state: on every outcome but completion with code 0 the EPC, EPCM, SECS fields and
TrackStates are unchanged (R83 table, R28; derived there). -/
def Obligations.OnlySuccessChangesTheTrackingState : Prop :=
  ∀ s t : State, exec .etrackc s = .next t → t.lp.outcome ≠ some (.completed .noError) → t.epc = s.epc

/-- A VM exit happens only in VMX non-root mode with the control set (R85 items 13 and 14). -/
def Obligations.NoVmExitOutsideTheVmxCondition : Prop :=
  ∀ (s t : State) (x : VmExit), exec .etrackc s = .next t → t.lp.outcome = some (.vmExit x) →
    s.lp.vmxNonRoot = true ∧ s.lp.vmcs.enableEpcVirtualizationExtensions = true

/-- Under NoConcurrentSGX the code 7 is never returned and no TRACKING_RESOURCE_CONFLICT exit is taken (R50, R51; D11;
the codes differ by D26). -/
def Obligations.NoConcurrentSgxNoConflict : Prop :=
  ∀ s t : State, s.cfg.noConcurrentSGX = true → s.cfg.codesDiffer = true → exec .etrackc s = .next t →
    t.lp.outcome ≠ some (.completed .epcPageConflict) ∧
    ∀ x, t.lp.outcome = some (.vmExit x) → x.code ≠ s.cfg.qualTrackingResourceConflict

/-- The flags on entry are irrelevant: they change no outcome, and after a completion nothing of them remains (R85 item
15; R15). -/
def Obligations.FlagsOnEntryAreNotRead : Prop :=
  ∀ (s t : State) (f : Flags), exec .etrackc s = .next t →
    (∀ c, t.lp.outcome = some (.completed c) → exec .etrackc (withFlags s f) = .next t) ∧
    ((∀ c, t.lp.outcome ≠ some (.completed c)) → exec .etrackc (withFlags s f) = .next (withFlags t f))

/-- The high half of RAX selects nothing and is zero after a completion (R85 item 3; decisions D5, D25). -/
def Obligations.HighHalfOfRaxIsIgnored : Prop :=
  ∀ (s t : State) (h : BitVec 32) (c : ReturnCode), exec .etrackc s = .next t → t.lp.outcome = some (.completed c) →
    exec .etrackc { s with lp := { s.lp with rax := h ++ s.lp.rax.setWidth 32 } } = .next t ∧
    t.lp.rax.toNat < 2 ^ 32

/-- In protected mode the high half of RCX is ignored, and stays (R85 item 18; decision D6). -/
def Obligations.HighHalfOfRcxIsIgnoredInProtectedMode : Prop :=
  ∀ (s t : State) (h : BitVec 32), s.lp.mode = .prot32 → exec .etrackc s = .next t →
    exec .etrackc { s with lp := { s.lp with rcx := h ++ s.lp.rcx.setWidth 32 } } =
      .next { t with lp := { t.lp with rcx := h ++ s.lp.rcx.setWidth 32 } }

/-- EAX is destroyed: after a completion EAX selects ETRACKC again exactly if the code was 17 (R133; derived there). -/
def Obligations.SelectorSurvivesOnlyCodeSeventeen : Prop :=
  ∀ (s t : State) (c : ReturnCode) (rest : List Byte), exec .etrackc s = .next t →
    t.lp.outcome = some (.completed c) →
    (decode (encodeBytes .etrackc ++ rest) t.lp.eax = .ok (.etrackc, rest) ↔ c = .prevTrkIncmpl)

/-- Codes 6 and 27 are not transient: repeated with EAX reloaded, in a state ETRACKC alone has changed, and with the
page not being modified, the instruction repeats the code, whatever the other draws (R134; derived there). -/
def Obligations.PermanentCodesRepeat : Prop :=
  ∀ (s t : State) (c : ReturnCode) (d : Draws), exec .etrackc s = .next t → t.lp.outcome = some (.completed c) →
    (c = .pgInvld ∨ c = .trackNotRequired) → d.pageBeingModified = false →
    t.lp.pc.toNat + s.cfg.enclsLen ≤ topAddress s.lp.mode →
    ∃ t', exec .etrackc { t with lp := { t.lp with rax := 0x11 }, draws := d } = .next t' ∧
      t'.lp.outcome = some (.completed c)
end

