-- ==== Sys2Proof/Laws/Decode.lean ====
section
/-! SUPPORT. The decoder on the bytes of ENCLS. -/

namespace Sys2Proof

/-- On the bytes of ENCLS the selector alone decides (30_encoding.md R60). -/
theorem decode_encls (tail : List Byte) (eax : Selector) :
    decode (enclsBytes ++ tail) eax =
      if eax = leafEtrackc then .ok (.etrackc, tail) else .error (.otherLeaf eax) := rfl

end Sys2Proof
end

