-- ==== Sys2Proof/Laws/Epc.lean ====
section
/-! SUPPORT. The laws of the EPC's page table: lookups after an update of one SECS, and what the update keeps. -/

namespace Sys2Proof.Machine

variable (f : Secs → Secs)

/-- The page updated keeps its EPCM entry and has its SECS changed. -/
theorem Epc.page?_updateSecs_self (e : Epc) (a : Nat) :
    (Epc.updateSecs f e a).page? a = (Epc.page? e a).map fun p => { p with secs := f p.secs } := by
  induction e with
  | nil => rfl
  | cons c e ih =>
    obtain ⟨b, p⟩ := c
    by_cases h : b = a <;> simp [Epc.updateSecs, Epc.page?, h, ih]

/-- Every other page is as before. -/
theorem Epc.page?_updateSecs_other (e : Epc) {a b : Nat} (h : b ≠ a) :
    (Epc.updateSecs f e a).page? b = Epc.page? e b := by
  induction e with
  | nil => rfl
  | cons c e ih =>
    obtain ⟨d, p⟩ := c
    by_cases h' : d = a
    · simp [Epc.updateSecs, Epc.page?, h', Ne.symm h]
    · simp only [Epc.updateSecs, h', if_false, Epc.page?, ih]

/-- An update changes nothing that does not read the updated SECS fields. -/
theorem Epc.map_updateSecs {α : Type} (g : Nat × EpcPage → α)
    (hg : ∀ a p, g (a, { p with secs := f p.secs }) = g (a, p)) (e : Epc) (a : Nat) :
    (Epc.updateSecs f e a).map g = e.map g := by
  induction e with
  | nil => rfl
  | cons c e ih =>
    obtain ⟨b, p⟩ := c
    by_cases h : b = a
    · simp [Epc.updateSecs, h, hg]
    · simp [Epc.updateSecs, h, ih]

/-- EPC membership is unchanged (10_state.md R23). -/
theorem Epc.keys_updateSecs (e : Epc) (a : Nat) : (Epc.updateSecs f e a).map Prod.fst = e.map Prod.fst :=
  Epc.map_updateSecs f _ (fun _ _ => rfl) e a

/-- A page of the updated table is a page of the table before, or one with its SECS changed. -/
theorem Epc.mem_updateSecs {e : Epc} {a : Nat} {x : Nat × EpcPage} (h : x ∈ Epc.updateSecs f e a) :
    x ∈ e ∨ ∃ p, (x.1, p) ∈ e ∧ x.2 = { p with secs := f p.secs } := by
  induction e with
  | nil => exact absurd h (by simp [Epc.updateSecs])
  | cons c e ih =>
    obtain ⟨b, p⟩ := c
    by_cases hb : b = a
    · have : x = (b, { p with secs := f p.secs }) ∨ x ∈ e := by simpa [Epc.updateSecs, hb] using h
      rcases this with rfl | hx
      · exact .inr ⟨p, List.mem_cons_self .., rfl⟩
      · exact .inl (List.mem_cons_of_mem _ hx)
    · have : x = (b, p) ∨ x ∈ Epc.updateSecs f e a := by simpa [Epc.updateSecs, hb] using h
      rcases this with rfl | hx
      · exact .inl (List.mem_cons_self ..)
      · rcases ih hx with h₁ | ⟨q, hq, hx⟩
        · exact .inl (List.mem_cons_of_mem _ h₁)
        · exact .inr ⟨q, List.mem_cons_of_mem _ hq, hx⟩

/-- What a page lookup finds is listed. -/
theorem Epc.mem_of_page? {e : Epc} {a : Nat} {p : EpcPage} (h : Epc.page? e a = some p) : (a, p) ∈ e := by
  induction e with
  | nil => exact absurd h (by simp [Epc.page?])
  | cons c e ih =>
    obtain ⟨b, q⟩ := c
    by_cases hb : b = a
    · have : q = p := by simpa [Epc.page?, hb] using h
      exact this ▸ hb ▸ List.mem_cons_self ..
    · exact List.mem_cons_of_mem _ (ih (by simpa [Epc.page?, hb] using h))

/-- Updating a SECS changes no page's EPCM entry, found by address. -/
theorem Epc.epcm_updateSecs {α : Type} (g : EpcPage → α) (hg : ∀ p, g { p with secs := f p.secs } = g p) (e : Epc)
    (a b : Nat) : ((Epc.updateSecs f e a).page? b).map g = (Epc.page? e b).map g := by
  by_cases h : b = a
  · subst h
    rw [Epc.page?_updateSecs_self, Option.map_map]
    exact congrArg (fun k => Option.map k (Epc.page? e b)) (funext hg)
  · rw [Epc.page?_updateSecs_other f e h]

/-- SGXWellFormed at a page in terms of the lookup (10_state.md R30). -/
theorem pageWellFormed_iff (e : Epc) (p : EpcPage) :
    pageWellFormed e p = true ↔
      (p.valid = true → p.pt.throughEnclaveSecs = true →
        pageAligned p.enclaveSecs = true ∧
          ∃ q, Epc.page? e p.enclaveSecs.toNat = some q ∧ q.valid = true ∧ q.pt = .secs) := by
  unfold pageWellFormed
  cases p.valid <;> cases p.pt.throughEnclaveSecs <;> simp
  cases h : Epc.page? e p.enclaveSecs.toNat <;> simp

theorem sgxWellFormed_iff (e : Epc) : sgxWellFormed e = true ↔ ∀ x ∈ e, pageWellFormed e x.2 = true := by
  simp [sgxWellFormed]

/-- Under SGXWellFormed a tracked page leads to a valid PT_SECS page (10_state.md R30, 40_etrackc.md R78). -/
theorem secs_of_sgxWellFormed {e : Epc} {a : Nat} {p : EpcPage} (he : sgxWellFormed e = true)
    (hp : Epc.page? e a = some p) (hv : p.valid = true) (ht : p.pt.throughEnclaveSecs = true) :
    pageAligned p.enclaveSecs = true ∧
      ∃ q, Epc.page? e p.enclaveSecs.toNat = some q ∧ q.valid = true ∧ q.pt = .secs :=
  (pageWellFormed_iff e p).1 ((sgxWellFormed_iff e).1 he _ (Epc.mem_of_page? hp)) hv ht

/-- An update of a SECS keeps SGXWellFormed at a page. -/
theorem pageWellFormed_updateSecs (e : Epc) (a : Nat) (p : EpcPage) :
    pageWellFormed (Epc.updateSecs f e a) p = pageWellFormed e p := by
  have h := Epc.epcm_updateSecs f (fun q : EpcPage => (q.valid, q.pt)) (fun _ => rfl) e a p.enclaveSecs.toNat
  rw [Bool.eq_iff_iff, pageWellFormed_iff, pageWellFormed_iff]
  refine forall_congr' fun _ => forall_congr' fun _ => and_congr_right fun _ => ?_
  constructor <;> rintro ⟨q, hq, hv, hs⟩
  · rw [hq] at h
    obtain ⟨r, hr, hrq⟩ := Option.map_eq_some_iff.1 h.symm
    exact ⟨r, hr, by simp_all, by simp_all⟩
  · rw [hq] at h
    obtain ⟨r, hr, hrq⟩ := Option.map_eq_some_iff.1 h
    exact ⟨r, hr, by simp_all, by simp_all⟩

/-- An update of a SECS keeps SGXWellFormed, since it writes no EPCM entry (10_state.md R30). -/
theorem sgxWellFormed_updateSecs (e : Epc) (a : Nat) :
    sgxWellFormed (Epc.updateSecs f e a) = sgxWellFormed e := by
  have h := Epc.map_updateSecs f (fun x => pageWellFormed e x.2) (fun _ _ => rfl) e a
  simp only [sgxWellFormed, pageWellFormed_updateSecs]
  have hall : ∀ l : Epc, (l.all fun c => pageWellFormed e c.2) = (l.map fun c => pageWellFormed e c.2).all id :=
    fun l => by rw [List.all_map]; rfl
  rw [hall, hall, h]

/-- An update that sets TRACKING within its width and leaves ENCLAVECONTEXT keeps the invariant of the EPC. -/
theorem epcInv_updateSecs {c : Config} {e : Epc} (he : EpcInv c e) (a : Nat)
    (ht : ∀ q, (f q).tracking < 2 ^ c.trackingBits) (hc : ∀ q, (f q).enclaveContext = q.enclaveContext) :
    EpcInv c (Epc.updateSecs f e a) := by
  have hkey : ∀ x ∈ Epc.updateSecs f e a, ∃ p, (x.1, p) ∈ e := fun x hx =>
    (Epc.mem_updateSecs f hx).elim (fun h => ⟨x.2, h⟩) (fun ⟨p, hp, _⟩ => ⟨p, hp⟩)
  refine ⟨?_, fun x hx => ?_, fun x hx => ?_, fun x hx => ?_, fun x hx => ?_, ?_⟩
  · have h := he.sorted
    unfold Epc.sorted at h ⊢
    rw [← List.pairwise_map (f := Prod.fst) (R := fun a b : Nat => a < b), Epc.keys_updateSecs]
    rwa [List.pairwise_map]
  · obtain ⟨p, hp⟩ := hkey x hx
    exact he.aligned (x.1, p) hp
  · obtain ⟨p, hp⟩ := hkey x hx
    exact he.inRange (x.1, p) hp
  · rcases Epc.mem_updateSecs f hx with h | ⟨p, _, hx⟩
    · exact he.tracking x h
    · rw [hx]
      exact ht _
  · rcases Epc.mem_updateSecs f hx with h | ⟨p, hp, hx⟩
    · exact he.context x h
    · rw [hx]
      simpa only [hc] using he.context _ hp
  · rw [sgxWellFormed_updateSecs]
    exact he.sgx

/-- TRACKING is always cut to its width. -/
theorem trackingField_lt (c : Config) (v : Nat) : trackingField c v < 2 ^ c.trackingBits :=
  Nat.mod_lt _ (Nat.two_pow_pos _)

end Sys2Proof.Machine
end

