-- ==== Sys2Proof/Laws/Operands.lean ====
section
/-! SUPPORT. The operand: alignment in its three spellings, and what the resolution of DS:RCX can come to. -/

namespace Sys2Proof.Machine

theorem pageAligned_iff_setWidth (a : Word) : pageAligned a = true ↔ a.setWidth 12 = 0#12 := by
  simp only [pageAligned, beq_iff_eq, ← BitVec.toNat_inj, BitVec.extractLsb'_toNat, BitVec.toNat_setWidth,
    Nat.shiftRight_zero]
  rfl

theorem pageAligned_iff_mod (a : Word) : pageAligned a = true ↔ a.toNat % 4096 = 0 := by
  rw [pageAligned_iff_setWidth, ← BitVec.toNat_inj, BitVec.toNat_setWidth]
  rfl

/-- The page key of an aligned address is the address. -/
theorem pageKey_of_aligned {a : Word} (h : pageAligned a = true) : pageKey a = a.toNat := by
  have := (pageAligned_iff_mod a).1 h
  unfold pageKey
  omega

/-- An aligned linear address translates to an aligned physical address (20_memory.md R45). -/
theorem translateAddress_aligned {table : List Mapping} {unlisted la pa : Word} {kind : AccessKind}
    (hla : pageAligned la = true) (h : translateAddress table unlisted la kind = .ok pa) : pageAligned pa = true := by
  have hm := (pageAligned_iff_mod la).1 hla
  unfold translateAddress at h
  split at h
  · cases h
  · split at h
    · cases h
    · simp only [Translation.ok.injEq] at h
      subst h
      rw [pageAligned_iff_mod, BitVec.toNat_ofNat]
      omega

/-- In a mode with a meaning the S2 checks are the canonical check or the DS checks (20_memory.md R43, R44). -/
theorem segmentFault_mode64 {c : Config} {p : LP} (h : p.mode = .mode64) :
    segmentFault c p = !canonical c.laBits (linearAddress p) := by
  simp [segmentFault, h]

theorem segmentFault_prot32 {c : Config} {p : LP} (h : p.mode = .prot32) :
    segmentFault c p = (!p.ds.usable || dsViolation p.ds (effectiveAddress p) c.access) := by
  simp [segmentFault, h]

/-- What the second half of the resolution can come to (40_etrackc.md R75). -/
theorem resolveLinear_cases (s : State) (la : Word) :
    (∃ pfec, translateAddress s.lp.translation s.draws.oraclePfec la s.cfg.access = .pageFault pfec ∧
      resolveLinear s la = .exception (.pf la pfec)) ∨
    (∃ pa, translateAddress s.lp.translation s.draws.oraclePfec la s.cfg.access = .ok pa ∧
      s.epc.page? (pageKey pa) = none ∧
      resolveLinear s la = .exception (.pf la (s.cfg.pfecSgx ||| s.draws.pfecBits))) ∨
    (∃ pa p, translateAddress s.lp.translation s.draws.oraclePfec la s.cfg.access = .ok pa ∧
      s.epc.page? (pageKey pa) = some p ∧ resolveLinear s la = .page pa p) := by
  unfold resolveLinear
  cases ht : translateAddress s.lp.translation s.draws.oraclePfec la s.cfg.access with
  | pageFault pfec => exact .inl ⟨pfec, rfl, rfl⟩
  | ok pa =>
    cases hp : s.epc.page? (pageKey pa) with
    | none => exact .inr (.inl ⟨pa, rfl, hp, by simp [hp]⟩)
    | some p => exact .inr (.inr ⟨pa, p, rfl, hp, by simp [hp]⟩)

theorem resolveOperand_misaligned {s : State} (h : pageAligned (linearAddress s.lp) = false) :
    resolveOperand s = .exception (.gp 0) := by
  simp [resolveOperand, h]

theorem resolveOperand_segmentFault {s : State} (h : segmentFault s.cfg s.lp = true) :
    resolveOperand s = .exception (.gp 0) := by
  simp [resolveOperand, h]

theorem resolveOperand_linear {s : State} (ha : pageAligned (linearAddress s.lp) = true)
    (hs : segmentFault s.cfg s.lp = false) : resolveOperand s = resolveLinear s (linearAddress s.lp) := by
  simp [resolveOperand, ha, hs]

/-- The whole resolution: a #GP of S1 or S2, or S3 (40_etrackc.md R73 to R75). -/
theorem resolveOperand_cases (s : State) :
    ((pageAligned (linearAddress s.lp) = false ∨ segmentFault s.cfg s.lp = true) ∧
      resolveOperand s = .exception (.gp 0)) ∨
    (pageAligned (linearAddress s.lp) = true ∧ segmentFault s.cfg s.lp = false ∧
      resolveOperand s = resolveLinear s (linearAddress s.lp)) := by
  cases ha : pageAligned (linearAddress s.lp)
  · exact .inl ⟨.inl rfl, resolveOperand_misaligned ha⟩
  · cases hs : segmentFault s.cfg s.lp
    · exact .inr ⟨rfl, rfl, resolveOperand_linear ha hs⟩
    · exact .inl ⟨.inr rfl, resolveOperand_segmentFault hs⟩

/-- An operand resolves to a page exactly as OperandResolves says, in a mode with a meaning. -/
theorem resolveOperand_page_iff {s : State} (hs : Admitted s) (pa : Word) (p : EpcPage) :
    resolveOperand s = .page pa p ↔ OperandResolves s pa p := by
  constructor
  · intro h
    rcases resolveOperand_cases s with ⟨_, h'⟩ | ⟨ha, hg, h'⟩
    · rw [h'] at h
      cases h
    · rw [h'] at h
      rcases resolveLinear_cases s (linearAddress s.lp) with ⟨_, _, h''⟩ | ⟨_, _, _, h''⟩ | ⟨pa', p', ht, he, h''⟩
      · rw [h''] at h
        cases h
      · rw [h''] at h
        cases h
      · rw [h''] at h
        cases h
        refine ⟨hs, ha, fun hm => ?_, fun hm => ?_, ht, he⟩
        · simpa [segmentFault_mode64 hm] using hg
        · simpa [segmentFault_prot32 hm] using hg
  · intro h
    have hg : segmentFault s.cfg s.lp = false := by
      rcases h.admitted.mode with hm | hm
      · simp [segmentFault_mode64 hm, h.long hm]
      · simp [segmentFault_prot32 hm, h.segment hm]
    rw [resolveOperand_linear h.aligned hg]
    simp [resolveLinear, h.translated, h.inEpc]

/-- The physical address of a resolved operand is page aligned, so it is its own page key. -/
theorem pageKey_of_resolves {s : State} {pa : Word} {p : EpcPage} (h : OperandResolves s pa p) :
    pageKey pa = pa.toNat :=
  pageKey_of_aligned (translateAddress_aligned h.aligned h.translated)

end Sys2Proof.Machine
end

