-- ==== Sys2Proof/Laws/State.lean ====
section
/-! SUPPORT. What each update of the state leaves in each field: one lemma per field, true by unfolding, for simp. -/

namespace Sys2Proof.Machine

variable (s : State)

/-! ### setLp -/
@[simp] theorem setLp_cfg (p : LP) : (s.setLp p).cfg = s.cfg := rfl
@[simp] theorem setLp_lp (p : LP) : (s.setLp p).lp = p := rfl
@[simp] theorem setLp_others (p : LP) : (s.setLp p).others = s.others := rfl
@[simp] theorem setLp_epc (p : LP) : (s.setLp p).epc = s.epc := rfl
@[simp] theorem setLp_text (p : LP) : (s.setLp p).text = s.text := rfl
@[simp] theorem setLp_schedule (p : LP) : (s.setLp p).schedule = s.schedule := rfl
@[simp] theorem setLp_draws (p : LP) : (s.setLp p).draws = s.draws := rfl
@[simp] theorem setLp_drawCount (p : LP) : (s.setLp p).drawCount = s.drawCount := rfl

/-! ### complete -/
@[simp] theorem complete_cfg (c : ReturnCode) (f : Flags) : (complete c f s).cfg = s.cfg := rfl
@[simp] theorem complete_id (c : ReturnCode) (f : Flags) : (complete c f s).lp.id = s.lp.id := rfl
@[simp] theorem complete_rax (c : ReturnCode) (f : Flags) : (complete c f s).lp.rax = returnValue c := rfl
@[simp] theorem complete_rcx (c : ReturnCode) (f : Flags) : (complete c f s).lp.rcx = s.lp.rcx := rfl
@[simp] theorem complete_otherGprs (c : ReturnCode) (f : Flags) : (complete c f s).lp.otherGprs = s.lp.otherGprs := rfl
@[simp] theorem complete_pc (c : ReturnCode) (f : Flags) : (complete c f s).lp.pc = s.lp.pc + BitVec.ofNat 64 s.cfg.enclsLen := rfl
@[simp] theorem complete_flags (c : ReturnCode) (f : Flags) : (complete c f s).lp.flags = f := rfl
@[simp] theorem complete_otherRflags (c : ReturnCode) (f : Flags) : (complete c f s).lp.otherRflags = s.lp.otherRflags := rfl
@[simp] theorem complete_cpl (c : ReturnCode) (f : Flags) : (complete c f s).lp.cpl = s.lp.cpl := rfl
@[simp] theorem complete_mode (c : ReturnCode) (f : Flags) : (complete c f s).lp.mode = s.lp.mode := rfl
@[simp] theorem complete_ds (c : ReturnCode) (f : Flags) : (complete c f s).lp.ds = s.lp.ds := rfl
@[simp] theorem complete_vmxNonRoot (c : ReturnCode) (f : Flags) : (complete c f s).lp.vmxNonRoot = s.lp.vmxNonRoot := rfl
@[simp] theorem complete_vmcs (c : ReturnCode) (f : Flags) : (complete c f s).lp.vmcs = s.lp.vmcs := rfl
@[simp] theorem complete_translation (c : ReturnCode) (f : Flags) : (complete c f s).lp.translation = s.lp.translation := rfl
@[simp] theorem complete_outcome (c : ReturnCode) (f : Flags) : (complete c f s).lp.outcome = some (.completed c) := rfl
@[simp] theorem complete_others (c : ReturnCode) (f : Flags) : (complete c f s).others = s.others := rfl
@[simp] theorem complete_epc (c : ReturnCode) (f : Flags) : (complete c f s).epc = s.epc := rfl
@[simp] theorem complete_text (c : ReturnCode) (f : Flags) : (complete c f s).text = s.text := rfl
@[simp] theorem complete_schedule (c : ReturnCode) (f : Flags) : (complete c f s).schedule = s.schedule := rfl
@[simp] theorem complete_draws (c : ReturnCode) (f : Flags) : (complete c f s).draws = s.draws := rfl
@[simp] theorem complete_drawCount (c : ReturnCode) (f : Flags) : (complete c f s).drawCount = s.drawCount := rfl

/-! ### takeException -/
@[simp] theorem takeException_cfg (e : Exc) : (takeException e s).cfg = s.cfg := rfl
@[simp] theorem takeException_id (e : Exc) : (takeException e s).lp.id = s.lp.id := rfl
@[simp] theorem takeException_rax (e : Exc) : (takeException e s).lp.rax = s.lp.rax := rfl
@[simp] theorem takeException_rcx (e : Exc) : (takeException e s).lp.rcx = s.lp.rcx := rfl
@[simp] theorem takeException_otherGprs (e : Exc) : (takeException e s).lp.otherGprs = s.lp.otherGprs := rfl
@[simp] theorem takeException_pc (e : Exc) : (takeException e s).lp.pc = s.lp.pc := rfl
@[simp] theorem takeException_flags (e : Exc) : (takeException e s).lp.flags = s.lp.flags := rfl
@[simp] theorem takeException_otherRflags (e : Exc) : (takeException e s).lp.otherRflags = s.lp.otherRflags := rfl
@[simp] theorem takeException_cpl (e : Exc) : (takeException e s).lp.cpl = s.lp.cpl := rfl
@[simp] theorem takeException_mode (e : Exc) : (takeException e s).lp.mode = s.lp.mode := rfl
@[simp] theorem takeException_ds (e : Exc) : (takeException e s).lp.ds = s.lp.ds := rfl
@[simp] theorem takeException_vmxNonRoot (e : Exc) : (takeException e s).lp.vmxNonRoot = s.lp.vmxNonRoot := rfl
@[simp] theorem takeException_vmcs (e : Exc) : (takeException e s).lp.vmcs = s.lp.vmcs := rfl
@[simp] theorem takeException_translation (e : Exc) : (takeException e s).lp.translation = s.lp.translation := rfl
@[simp] theorem takeException_outcome (e : Exc) : (takeException e s).lp.outcome = some (.exception e) := rfl
@[simp] theorem takeException_others (e : Exc) : (takeException e s).others = s.others := rfl
@[simp] theorem takeException_epc (e : Exc) : (takeException e s).epc = s.epc := rfl
@[simp] theorem takeException_text (e : Exc) : (takeException e s).text = s.text := rfl
@[simp] theorem takeException_schedule (e : Exc) : (takeException e s).schedule = s.schedule := rfl
@[simp] theorem takeException_draws (e : Exc) : (takeException e s).draws = s.draws := rfl
@[simp] theorem takeException_drawCount (e : Exc) : (takeException e s).drawCount = s.drawCount := rfl

/-! ### takeRefusal -/
@[simp] theorem takeRefusal_cfg (r : Refusal) : (takeRefusal r s).cfg = s.cfg := rfl
@[simp] theorem takeRefusal_id (r : Refusal) : (takeRefusal r s).lp.id = s.lp.id := rfl
@[simp] theorem takeRefusal_rax (r : Refusal) : (takeRefusal r s).lp.rax = s.lp.rax := rfl
@[simp] theorem takeRefusal_rcx (r : Refusal) : (takeRefusal r s).lp.rcx = s.lp.rcx := rfl
@[simp] theorem takeRefusal_otherGprs (r : Refusal) : (takeRefusal r s).lp.otherGprs = s.lp.otherGprs := rfl
@[simp] theorem takeRefusal_pc (r : Refusal) : (takeRefusal r s).lp.pc = s.lp.pc := rfl
@[simp] theorem takeRefusal_flags (r : Refusal) : (takeRefusal r s).lp.flags = s.lp.flags := rfl
@[simp] theorem takeRefusal_otherRflags (r : Refusal) : (takeRefusal r s).lp.otherRflags = s.lp.otherRflags := rfl
@[simp] theorem takeRefusal_cpl (r : Refusal) : (takeRefusal r s).lp.cpl = s.lp.cpl := rfl
@[simp] theorem takeRefusal_mode (r : Refusal) : (takeRefusal r s).lp.mode = s.lp.mode := rfl
@[simp] theorem takeRefusal_ds (r : Refusal) : (takeRefusal r s).lp.ds = s.lp.ds := rfl
@[simp] theorem takeRefusal_vmxNonRoot (r : Refusal) : (takeRefusal r s).lp.vmxNonRoot = s.lp.vmxNonRoot := rfl
@[simp] theorem takeRefusal_vmcs (r : Refusal) : (takeRefusal r s).lp.vmcs = s.lp.vmcs := rfl
@[simp] theorem takeRefusal_translation (r : Refusal) : (takeRefusal r s).lp.translation = s.lp.translation := rfl
@[simp] theorem takeRefusal_outcome (r : Refusal) : (takeRefusal r s).lp.outcome = some (.refused r) := rfl
@[simp] theorem takeRefusal_others (r : Refusal) : (takeRefusal r s).others = s.others := rfl
@[simp] theorem takeRefusal_epc (r : Refusal) : (takeRefusal r s).epc = s.epc := rfl
@[simp] theorem takeRefusal_text (r : Refusal) : (takeRefusal r s).text = s.text := rfl
@[simp] theorem takeRefusal_schedule (r : Refusal) : (takeRefusal r s).schedule = s.schedule := rfl
@[simp] theorem takeRefusal_draws (r : Refusal) : (takeRefusal r s).draws = s.draws := rfl
@[simp] theorem takeRefusal_drawCount (r : Refusal) : (takeRefusal r s).drawCount = s.drawCount := rfl

/-! ### takeModelFault -/
@[simp] theorem takeModelFault_cfg (f : ModelFault) : (takeModelFault f s).cfg = s.cfg := rfl
@[simp] theorem takeModelFault_id (f : ModelFault) : (takeModelFault f s).lp.id = s.lp.id := rfl
@[simp] theorem takeModelFault_rax (f : ModelFault) : (takeModelFault f s).lp.rax = s.lp.rax := rfl
@[simp] theorem takeModelFault_rcx (f : ModelFault) : (takeModelFault f s).lp.rcx = s.lp.rcx := rfl
@[simp] theorem takeModelFault_otherGprs (f : ModelFault) : (takeModelFault f s).lp.otherGprs = s.lp.otherGprs := rfl
@[simp] theorem takeModelFault_pc (f : ModelFault) : (takeModelFault f s).lp.pc = s.lp.pc := rfl
@[simp] theorem takeModelFault_flags (f : ModelFault) : (takeModelFault f s).lp.flags = s.lp.flags := rfl
@[simp] theorem takeModelFault_otherRflags (f : ModelFault) : (takeModelFault f s).lp.otherRflags = s.lp.otherRflags := rfl
@[simp] theorem takeModelFault_cpl (f : ModelFault) : (takeModelFault f s).lp.cpl = s.lp.cpl := rfl
@[simp] theorem takeModelFault_mode (f : ModelFault) : (takeModelFault f s).lp.mode = s.lp.mode := rfl
@[simp] theorem takeModelFault_ds (f : ModelFault) : (takeModelFault f s).lp.ds = s.lp.ds := rfl
@[simp] theorem takeModelFault_vmxNonRoot (f : ModelFault) : (takeModelFault f s).lp.vmxNonRoot = s.lp.vmxNonRoot := rfl
@[simp] theorem takeModelFault_vmcs (f : ModelFault) : (takeModelFault f s).lp.vmcs = s.lp.vmcs := rfl
@[simp] theorem takeModelFault_translation (f : ModelFault) : (takeModelFault f s).lp.translation = s.lp.translation := rfl
@[simp] theorem takeModelFault_outcome (f : ModelFault) : (takeModelFault f s).lp.outcome = some (.modelFault f s.cfg.cplFault) := rfl
@[simp] theorem takeModelFault_others (f : ModelFault) : (takeModelFault f s).others = s.others := rfl
@[simp] theorem takeModelFault_epc (f : ModelFault) : (takeModelFault f s).epc = s.epc := rfl
@[simp] theorem takeModelFault_text (f : ModelFault) : (takeModelFault f s).text = s.text := rfl
@[simp] theorem takeModelFault_schedule (f : ModelFault) : (takeModelFault f s).schedule = s.schedule := rfl
@[simp] theorem takeModelFault_draws (f : ModelFault) : (takeModelFault f s).draws = s.draws := rfl
@[simp] theorem takeModelFault_drawCount (f : ModelFault) : (takeModelFault f s).drawCount = s.drawCount := rfl

/-! ### takeVmExit -/
@[simp] theorem takeVmExit_cfg (code gpa : Word) : (takeVmExit code gpa s).cfg = s.cfg := rfl
@[simp] theorem takeVmExit_id (code gpa : Word) : (takeVmExit code gpa s).lp.id = s.lp.id := rfl
@[simp] theorem takeVmExit_rax (code gpa : Word) : (takeVmExit code gpa s).lp.rax = s.lp.rax := rfl
@[simp] theorem takeVmExit_rcx (code gpa : Word) : (takeVmExit code gpa s).lp.rcx = s.lp.rcx := rfl
@[simp] theorem takeVmExit_otherGprs (code gpa : Word) : (takeVmExit code gpa s).lp.otherGprs = s.lp.otherGprs := rfl
@[simp] theorem takeVmExit_pc (code gpa : Word) : (takeVmExit code gpa s).lp.pc = s.lp.pc := rfl
@[simp] theorem takeVmExit_flags (code gpa : Word) : (takeVmExit code gpa s).lp.flags = s.lp.flags := rfl
@[simp] theorem takeVmExit_otherRflags (code gpa : Word) : (takeVmExit code gpa s).lp.otherRflags = s.lp.otherRflags := rfl
@[simp] theorem takeVmExit_cpl (code gpa : Word) : (takeVmExit code gpa s).lp.cpl = s.lp.cpl := rfl
@[simp] theorem takeVmExit_mode (code gpa : Word) : (takeVmExit code gpa s).lp.mode = s.lp.mode := rfl
@[simp] theorem takeVmExit_ds (code gpa : Word) : (takeVmExit code gpa s).lp.ds = s.lp.ds := rfl
@[simp] theorem takeVmExit_vmxNonRoot (code gpa : Word) : (takeVmExit code gpa s).lp.vmxNonRoot = s.lp.vmxNonRoot := rfl
@[simp] theorem takeVmExit_vmcs (code gpa : Word) : (takeVmExit code gpa s).lp.vmcs = ⟨s.lp.vmcs.enableEpcVirtualizationExtensions, s.cfg.exitReasonSgxConflict, code, 0, gpa, 0⟩ := rfl
@[simp] theorem takeVmExit_translation (code gpa : Word) : (takeVmExit code gpa s).lp.translation = s.lp.translation := rfl
@[simp] theorem takeVmExit_outcome (code gpa : Word) : (takeVmExit code gpa s).lp.outcome = some (.vmExit ⟨s.cfg.exitReasonSgxConflict, code, 0, gpa, 0⟩) := rfl
@[simp] theorem takeVmExit_others (code gpa : Word) : (takeVmExit code gpa s).others = s.others := rfl
@[simp] theorem takeVmExit_epc (code gpa : Word) : (takeVmExit code gpa s).epc = s.epc := rfl
@[simp] theorem takeVmExit_text (code gpa : Word) : (takeVmExit code gpa s).text = s.text := rfl
@[simp] theorem takeVmExit_schedule (code gpa : Word) : (takeVmExit code gpa s).schedule = s.schedule := rfl
@[simp] theorem takeVmExit_draws (code gpa : Word) : (takeVmExit code gpa s).draws = s.draws := rfl
@[simp] theorem takeVmExit_drawCount (code gpa : Word) : (takeVmExit code gpa s).drawCount = s.drawCount := rfl

/-! ### startTracking -/
@[simp] theorem startTracking_cfg (a : Nat) : (startTracking a s).cfg = s.cfg := rfl
@[simp] theorem startTracking_lp (a : Nat) : (startTracking a s).lp = s.lp := rfl
@[simp] theorem startTracking_others (a : Nat) : (startTracking a s).others = s.others := rfl
@[simp] theorem startTracking_epc (a : Nat) : (startTracking a s).epc = s.epc.updateSecs (fun q => { q with trackState := Config.startTrackingCycle q.trackState, tracking := trackingField s.cfg s.draws.tracking }) a := rfl
@[simp] theorem startTracking_text (a : Nat) : (startTracking a s).text = s.text := rfl
@[simp] theorem startTracking_schedule (a : Nat) : (startTracking a s).schedule = s.schedule := rfl
@[simp] theorem startTracking_draws (a : Nat) : (startTracking a s).draws = s.draws := rfl
@[simp] theorem startTracking_drawCount (a : Nat) : (startTracking a s).drawCount = s.drawCount := rfl

/-! ### trackingProgress -/
@[simp] theorem trackingProgress_cfg (a v : Nat) : (trackingProgress a v s).cfg = s.cfg := rfl
@[simp] theorem trackingProgress_lp (a v : Nat) : (trackingProgress a v s).lp = s.lp := rfl
@[simp] theorem trackingProgress_others (a v : Nat) : (trackingProgress a v s).others = s.others := rfl
@[simp] theorem trackingProgress_epc (a v : Nat) : (trackingProgress a v s).epc = s.epc.updateSecs (fun q => { q with tracking := trackingField s.cfg v }) a := rfl
@[simp] theorem trackingProgress_text (a v : Nat) : (trackingProgress a v s).text = s.text := rfl
@[simp] theorem trackingProgress_schedule (a v : Nat) : (trackingProgress a v s).schedule = s.schedule := rfl
@[simp] theorem trackingProgress_draws (a v : Nat) : (trackingProgress a v s).draws = s.draws := rfl
@[simp] theorem trackingProgress_drawCount (a v : Nat) : (trackingProgress a v s).drawCount = s.drawCount := rfl

/-! ### loadRegs -/
@[simp] theorem loadRegs_cfg (l : RegLoad) : (loadRegs l s).cfg = s.cfg := rfl
@[simp] theorem loadRegs_id (l : RegLoad) : (loadRegs l s).lp.id = s.lp.id := rfl
@[simp] theorem loadRegs_rax (l : RegLoad) : (loadRegs l s).lp.rax = l.rax.getD s.lp.rax := rfl
@[simp] theorem loadRegs_rcx (l : RegLoad) : (loadRegs l s).lp.rcx = l.rcx.getD s.lp.rcx := rfl
@[simp] theorem loadRegs_otherGprs (l : RegLoad) : (loadRegs l s).lp.otherGprs = s.lp.otherGprs := rfl
@[simp] theorem loadRegs_pc (l : RegLoad) : (loadRegs l s).lp.pc = s.lp.pc := rfl
@[simp] theorem loadRegs_flags (l : RegLoad) : (loadRegs l s).lp.flags = s.lp.flags := rfl
@[simp] theorem loadRegs_otherRflags (l : RegLoad) : (loadRegs l s).lp.otherRflags = s.lp.otherRflags := rfl
@[simp] theorem loadRegs_cpl (l : RegLoad) : (loadRegs l s).lp.cpl = s.lp.cpl := rfl
@[simp] theorem loadRegs_mode (l : RegLoad) : (loadRegs l s).lp.mode = s.lp.mode := rfl
@[simp] theorem loadRegs_ds (l : RegLoad) : (loadRegs l s).lp.ds = s.lp.ds := rfl
@[simp] theorem loadRegs_vmxNonRoot (l : RegLoad) : (loadRegs l s).lp.vmxNonRoot = s.lp.vmxNonRoot := rfl
@[simp] theorem loadRegs_vmcs (l : RegLoad) : (loadRegs l s).lp.vmcs = s.lp.vmcs := rfl
@[simp] theorem loadRegs_translation (l : RegLoad) : (loadRegs l s).lp.translation = s.lp.translation := rfl
@[simp] theorem loadRegs_outcome (l : RegLoad) : (loadRegs l s).lp.outcome = s.lp.outcome := rfl
@[simp] theorem loadRegs_others (l : RegLoad) : (loadRegs l s).others = s.others := rfl
@[simp] theorem loadRegs_epc (l : RegLoad) : (loadRegs l s).epc = s.epc := rfl
@[simp] theorem loadRegs_text (l : RegLoad) : (loadRegs l s).text = s.text := rfl
@[simp] theorem loadRegs_schedule (l : RegLoad) : (loadRegs l s).schedule = s.schedule := rfl
@[simp] theorem loadRegs_draws (l : RegLoad) : (loadRegs l s).draws = s.draws := rfl
@[simp] theorem loadRegs_drawCount (l : RegLoad) : (loadRegs l s).drawCount = s.drawCount := rfl

/-! ### refreshDraws -/
@[simp] theorem refreshDraws_cfg : (refreshDraws s).cfg = s.cfg := rfl
@[simp] theorem refreshDraws_lp : (refreshDraws s).lp = s.lp := rfl
@[simp] theorem refreshDraws_others : (refreshDraws s).others = s.others := rfl
@[simp] theorem refreshDraws_epc : (refreshDraws s).epc = s.epc := rfl
@[simp] theorem refreshDraws_text : (refreshDraws s).text = s.text := rfl
@[simp] theorem refreshDraws_schedule : (refreshDraws s).schedule = s.schedule := rfl
@[simp] theorem refreshDraws_draws : (refreshDraws s).draws = freeDraws s.drawCount := rfl
@[simp] theorem refreshDraws_drawCount : (refreshDraws s).drawCount = s.drawCount + 1 := rfl

/-! ### beginExecution -/
@[simp] theorem beginExecution_cfg (l : RegLoad) : (beginExecution l s).cfg = s.cfg := rfl
@[simp] theorem beginExecution_id (l : RegLoad) : (beginExecution l s).lp.id = s.lp.id := rfl
@[simp] theorem beginExecution_rax (l : RegLoad) : (beginExecution l s).lp.rax = l.rax.getD s.lp.rax := rfl
@[simp] theorem beginExecution_rcx (l : RegLoad) : (beginExecution l s).lp.rcx = l.rcx.getD s.lp.rcx := rfl
@[simp] theorem beginExecution_otherGprs (l : RegLoad) : (beginExecution l s).lp.otherGprs = s.lp.otherGprs := rfl
@[simp] theorem beginExecution_pc (l : RegLoad) : (beginExecution l s).lp.pc = s.lp.pc := rfl
@[simp] theorem beginExecution_flags (l : RegLoad) : (beginExecution l s).lp.flags = s.lp.flags := rfl
@[simp] theorem beginExecution_otherRflags (l : RegLoad) : (beginExecution l s).lp.otherRflags = s.lp.otherRflags := rfl
@[simp] theorem beginExecution_cpl (l : RegLoad) : (beginExecution l s).lp.cpl = s.lp.cpl := rfl
@[simp] theorem beginExecution_mode (l : RegLoad) : (beginExecution l s).lp.mode = s.lp.mode := rfl
@[simp] theorem beginExecution_ds (l : RegLoad) : (beginExecution l s).lp.ds = s.lp.ds := rfl
@[simp] theorem beginExecution_vmxNonRoot (l : RegLoad) : (beginExecution l s).lp.vmxNonRoot = s.lp.vmxNonRoot := rfl
@[simp] theorem beginExecution_vmcs (l : RegLoad) : (beginExecution l s).lp.vmcs = s.lp.vmcs := rfl
@[simp] theorem beginExecution_translation (l : RegLoad) : (beginExecution l s).lp.translation = s.lp.translation := rfl
@[simp] theorem beginExecution_outcome (l : RegLoad) : (beginExecution l s).lp.outcome = s.lp.outcome := rfl
@[simp] theorem beginExecution_others (l : RegLoad) : (beginExecution l s).others = s.others := rfl
@[simp] theorem beginExecution_epc (l : RegLoad) : (beginExecution l s).epc = s.epc := rfl
@[simp] theorem beginExecution_text (l : RegLoad) : (beginExecution l s).text = s.text := rfl
@[simp] theorem beginExecution_schedule (l : RegLoad) : (beginExecution l s).schedule = s.schedule := rfl
@[simp] theorem beginExecution_draws (l : RegLoad) : (beginExecution l s).draws = freeDraws s.drawCount := rfl
@[simp] theorem beginExecution_drawCount (l : RegLoad) : (beginExecution l s).drawCount = s.drawCount + 1 := rfl

end Sys2Proof.Machine
end

