-- ==== Sys2Proof/Laws/Etrackc.lean ====
section
/-! SUPPORT. Everything an execution of ETRACKC can do, said once: when it is refused, and the ten ways it ends. -/

namespace Sys2Proof.Machine

/-- The refusals of S0 are absent exactly when the execution is not refused. -/
theorem launchRefusal_eq_none_iff (s : State) : launchRefusal s = none ↔ Unrefused s := by
  unfold launchRefusal
  constructor
  · intro h
    split at h
    · cases h
    split at h
    · cases h
    split at h
    · cases h
    split at h
    · cases h
    split at h
    · cases h
    rename_i hm hl hg hd hr
    refine ⟨?_, by simpa [LP.eax, leafEtrackc] using hl, by simpa using hg, fun hp => by simpa [hp] using hd,
      Nat.le_of_not_lt hr⟩
    revert hm
    cases s.lp.mode <;> simp [modeSupported]
  · rintro ⟨hm, hl, hg, hd, hr⟩
    have h₁ : modeSupported s.lp.mode = true := by rcases hm with hm | hm <;> simp [hm, modeSupported]
    have h₂ : s.lp.eax = leafEtrackc := hl
    have h₄ : ¬(s.lp.mode = .prot32 ∧ (!pageAligned s.lp.ds.base) = true) := fun h => by simp [hd h.1] at h
    simp only [h₁, h₂, hg, h₄, Nat.not_lt.2 hr, ne_eq, not_true, if_false, Bool.not_true, Bool.false_eq_true]

/-- The SECS found at S6 is the page `sp` at the physical address `a` (40_etrackc.md R76 to R78). -/
structure OnSecs (s : State) (a : Nat) (sp : EpcPage) : Prop where
  page : ∃ pa p, OperandResolves s pa p ∧ p.valid = true ∧ targetSecs pa p = some a
  quiet : pageBeingModified s = false
  secs : s.epc.page? a = some sp

/-- The ways an execution that is not refused ends (40_etrackc.md R71). -/
inductive EtrackcEnds (s : State) : State → Prop
  | leafUnavailable : s.cfg.featureEtrackc = false → EtrackcEnds s (takeModelFault .leafUnavailable s)
  | notCPL0 : s.cfg.featureEtrackc = true → s.lp.cpl ≠ 0 → EtrackcEnds s (takeModelFault .notCPL0 s)
  | exception {e : Exc} : Admitted s → resolveOperand s = .exception e → EtrackcEnds s (takeException e s)
  | pageConflict {pa : Word} {p : EpcPage} : OperandResolves s pa p → pageBeingModified s = true →
      EtrackcEnds s (complete .epcPageConflict (s4Flags s) s)
  | pageInvalid {pa : Word} {p : EpcPage} : OperandResolves s pa p → pageBeingModified s = false → p.valid = false →
      EtrackcEnds s (complete .pgInvld (completionFlags .pgInvld) s)
  | notTracked {pa : Word} {p : EpcPage} : OperandResolves s pa p → pageBeingModified s = false → p.valid = true →
      targetSecs pa p = none → EtrackcEnds s (complete .trackNotRequired (completionFlags .trackNotRequired) s)
  | vmExit {a : Nat} {sp : EpcPage} {code : Word} : OnSecs s a sp → vmExitEnabled s.lp = true →
      (trackingFacilityBusy s = true ∧ code = s.cfg.qualTrackingResourceConflict ∨
        trackingFacilityBusy s = false ∧ sp.secs.tracking ≠ 0 ∧ code = s.cfg.qualTrackingReferenceConflict) →
      EtrackcEnds s (takeVmExit code sp.secs.enclaveContext s)
  | facilityConflict {a : Nat} {sp : EpcPage} : OnSecs s a sp → vmExitEnabled s.lp = false →
      trackingFacilityBusy s = true →
      EtrackcEnds s (complete .epcPageConflict (completionFlags .epcPageConflict) s)
  | cycleIncomplete {a : Nat} {sp : EpcPage} : OnSecs s a sp → vmExitEnabled s.lp = false →
      trackingFacilityBusy s = false → sp.secs.tracking ≠ 0 →
      EtrackcEnds s (complete .prevTrkIncmpl (completionFlags .prevTrkIncmpl) s)
  | success {a : Nat} {sp : EpcPage} : OnSecs s a sp → trackingFacilityBusy s = false → sp.secs.tracking = 0 →
      EtrackcEnds s (complete .noError (completionFlags .noError) (startTracking a s))

/-- The work on the SECS found ends in one of the last four ways. -/
theorem etrackcOnSecs_ends {s : State} {a : Nat} {sp : EpcPage} (h : OnSecs s a sp) :
    EtrackcEnds s (etrackcOnSecs a sp.secs s) := by
  unfold etrackcOnSecs trackingConflict
  cases hb : trackingFacilityBusy s
  · by_cases ht : sp.secs.tracking = 0
    · simpa [ht] using EtrackcEnds.success h hb ht
    · cases hv : vmExitEnabled s.lp
      · simpa [ht] using EtrackcEnds.cycleIncomplete h hv hb ht
      · simpa [ht] using EtrackcEnds.vmExit h hv (.inr ⟨hb, ht, rfl⟩)
  · cases hv : vmExitEnabled s.lp
    · simpa using EtrackcEnds.facilityConflict h hv hb
    · simpa using EtrackcEnds.vmExit h hv (.inl ⟨hb, rfl⟩)

/-- The SECS that S6 leads to is a page of the EPC (10_state.md R30). -/
theorem exists_targetSecs {s : State} {pa : Word} {p : EpcPage} {a : Nat} (h : OperandResolves s pa p)
    (hv : p.valid = true) (ht : targetSecs pa p = some a) : ∃ sp, s.epc.page? a = some sp := by
  have hsgx := fun hp => secs_of_sgxWellFormed h.admitted.sgx h.inEpc hv hp
  unfold targetSecs at ht
  cases hp : p.pt <;> simp only [hp, Option.some.injEq, reduceCtorEq] at ht
  · exact ⟨p, ht ▸ h.inEpc⟩
  all_goals
    obtain ⟨_, q, hq, _⟩ := hsgx (by simp [hp, PageType.throughEnclaveSecs])
    exact ⟨q, ht ▸ hq⟩

theorem execEtrackc_unrefused {s : State} (h : Unrefused s) :
    execEtrackc s =
      if !s.cfg.featureEtrackc then .next (takeModelFault .leafUnavailable s)
      else if s.lp.cpl ≠ 0 then .next (takeModelFault .notCPL0 s)
      else match resolveOperand s with
        | .exception e => .next (takeException e s)
        | .page pa p => etrackcOnPage pa p s := by
  have h' := (launchRefusal_eq_none_iff s).2 h
  unfold execEtrackc
  generalize launchRefusal s = o at h'
  subst h'
  rfl

/-- An admitted execution is its work on the operand. -/
theorem execEtrackc_admitted {s : State} (h : Admitted s) :
    execEtrackc s =
      match resolveOperand s with
      | .exception e => .next (takeException e s)
      | .page pa p => etrackcOnPage pa p s := by
  simp [execEtrackc_unrefused h.toUnrefused, h.feature, h.cpl]

theorem execEtrackc_page {s : State} {pa : Word} {p : EpcPage} (h : OperandResolves s pa p) :
    execEtrackc s = etrackcOnPage pa p s := by
  simp [execEtrackc_admitted h.admitted, (resolveOperand_page_iff h.admitted pa p).2 h]

theorem etrackcOnPage_secs {s : State} {pa : Word} {p sp : EpcPage} {a : Nat} (hq : pageBeingModified s = false)
    (hv : p.valid = true) (ht : targetSecs pa p = some a) (hs : s.epc.page? a = some sp) :
    etrackcOnPage pa p s = .next (etrackcOnSecs a sp.secs s) := by
  simp [etrackcOnPage, hq, hv, ht, hs]

/-- The work on the resolved page always gives a next state, in one of the ways EtrackcEnds lists. -/
theorem etrackcOnPage_ends {s : State} {pa : Word} {p : EpcPage} (h : OperandResolves s pa p) :
    ∃ t, etrackcOnPage pa p s = .next t ∧ EtrackcEnds s t := by
  cases hm : pageBeingModified s
  · cases hv : p.valid
    · exact ⟨_, by simp [etrackcOnPage, hm, hv], .pageInvalid h hm hv⟩
    · cases ht : targetSecs pa p with
      | none => exact ⟨_, by simp [etrackcOnPage, hm, hv, ht], .notTracked h hm hv ht⟩
      | some a =>
        obtain ⟨sp, hs⟩ := exists_targetSecs h hv ht
        exact ⟨_, etrackcOnPage_secs hm hv ht hs, etrackcOnSecs_ends ⟨⟨pa, p, h, hv, ht⟩, hm, hs⟩⟩
  · exact ⟨_, by simp [etrackcOnPage, hm], .pageConflict h hm⟩

/-- An execution that is not refused gives a next state, in one of the ways EtrackcEnds lists. -/
theorem execEtrackc_ends {s : State} (h : Unrefused s) : ∃ t, execEtrackc s = .next t ∧ EtrackcEnds s t := by
  rw [execEtrackc_unrefused h]
  cases hf : s.cfg.featureEtrackc
  · exact ⟨_, by simp, .leafUnavailable hf⟩
  · by_cases hc : s.lp.cpl = 0
    · have ha : Admitted s := ⟨h, hf, hc⟩
      cases hr : resolveOperand s with
      | exception e => exact ⟨_, by simp [hc], .exception ha hr⟩
      | page pa p => simpa [hc] using etrackcOnPage_ends ((resolveOperand_page_iff ha pa p).1 hr)
    · exact ⟨_, by simp [hc], .notCPL0 hf hc⟩

/-- The inversion of an execution: a next state comes of no refusal, and of one of the ten ways. -/
theorem execEtrackc_next {s t : State} (h : execEtrackc s = .next t) : Unrefused s ∧ EtrackcEnds s t := by
  have hu : Unrefused s := by
    rw [← launchRefusal_eq_none_iff]
    cases hr : launchRefusal s with
    | none => rfl
    | some r => simp [execEtrackc, hr] at h
  obtain ⟨t', ht, he⟩ := execEtrackc_ends hu
  rw [ht] at h
  cases h
  exact ⟨hu, he⟩

/-- An execution that reaches a SECS is its work on that SECS. -/
theorem execEtrackc_onSecs {s : State} {a : Nat} {sp : EpcPage} (h : OnSecs s a sp) :
    execEtrackc s = .next (etrackcOnSecs a sp.secs s) := by
  obtain ⟨⟨pa, p, ho, hv, ht⟩, hm, hs⟩ := h
  rw [execEtrackc_page ho, etrackcOnPage_secs hm hv ht hs]

/-- The converse of the inversion: each of the ten ways is the end of the execution. -/
theorem execEtrackc_of_ends {s t : State} (hu : Unrefused s) (he : EtrackcEnds s t) : execEtrackc s = .next t := by
  cases he with
  | leafUnavailable hf => simp [execEtrackc_unrefused hu, hf]
  | notCPL0 hf hc => simp [execEtrackc_unrefused hu, hf, hc]
  | exception ha hr => simp [execEtrackc_admitted ha, hr]
  | pageConflict h hm => simp [execEtrackc_page h, etrackcOnPage, hm]
  | pageInvalid h hm hv => simp [execEtrackc_page h, etrackcOnPage, hm, hv]
  | notTracked h hm hv ht => simp [execEtrackc_page h, etrackcOnPage, hm, hv, ht]
  | vmExit h hv hc =>
    rw [execEtrackc_onSecs h]
    rcases hc with ⟨hb, rfl⟩ | ⟨hb, ht, rfl⟩ <;> simp [etrackcOnSecs, trackingConflict, *]
  | facilityConflict h hv hb =>
    rw [execEtrackc_onSecs h]
    simp [etrackcOnSecs, trackingConflict, hv, hb]
  | cycleIncomplete h hv hb ht =>
    rw [execEtrackc_onSecs h]
    simp [etrackcOnSecs, trackingConflict, hv, hb, ht]
  | success h hb ht =>
    rw [execEtrackc_onSecs h]
    simp [etrackcOnSecs, hb, ht]

/-- An execution gives a next state exactly where it is not refused, and ends in one of the ten ways. -/
theorem execEtrackc_next_iff {s t : State} : execEtrackc s = .next t ↔ Unrefused s ∧ EtrackcEnds s t :=
  ⟨execEtrackc_next, fun h => execEtrackc_of_ends h.1 h.2⟩

end Sys2Proof.Machine
end

