-- ==== Sys2Proof/Laws/Memory.lean ====
section
/-! SUPPORT. The laws of the program text: reads after writes, the canonical form, and fetching what was written. -/

namespace Sys2Proof.Machine

theorem Memory.read_write_self (m : Memory) (a : Nat) (v : Byte) : (Memory.write m a v).read a = some v := by
  induction m with
  | nil => simp [Memory.write, Memory.read]
  | cons c m ih =>
    obtain ⟨b, w⟩ := c
    by_cases h : a < b
    · simp [Memory.write, Memory.read, h]
    · by_cases h' : a = b
      · simp [Memory.write, Memory.read, h']
      · simp [Memory.write, Memory.read, h, h', Ne.symm h', ih]

theorem Memory.read_write_other (m : Memory) {a b : Nat} (v : Byte) (h : b ≠ a) :
    (Memory.write m a v).read b = Memory.read m b := by
  induction m with
  | nil => simp [Memory.write, Memory.read, Ne.symm h]
  | cons c m ih =>
    obtain ⟨d, w⟩ := c
    by_cases h₁ : a < d
    · simp [Memory.write, Memory.read, h₁, Ne.symm h]
    · by_cases h₂ : a = d
      · subst h₂
        simp [Memory.write, Memory.read, Ne.symm h]
      · simp [Memory.write, Memory.read, h₁, h₂, ih]

/-- The addresses a write lists: those before and the one written. -/
theorem Memory.mem_write {m : Memory} {a : Nat} {v : Byte} {c : Host.Cell} (h : c ∈ Memory.write m a v) :
    c = (a, v) ∨ c ∈ m := by
  induction m with
  | nil => simpa [Memory.write] using h
  | cons d m ih =>
    obtain ⟨b, w⟩ := d
    by_cases h₁ : a < b
    · simpa [Memory.write, h₁] using h
    · by_cases h₂ : a = b
      · have : c = (a, v) ∨ c ∈ m := by simpa [Memory.write, h₂] using h
        exact this.imp_right (List.mem_cons_of_mem _)
      · have : c = (b, w) ∨ c ∈ Memory.write m a v := by simpa [Memory.write, h₁, h₂] using h
        rcases this with rfl | hc
        · exact .inr (List.mem_cons_self ..)
        · exact (ih hc).imp_right (List.mem_cons_of_mem _)

/-- A write below 2^64 keeps the canonical form. -/
theorem Memory.write_wf {m : Memory} {a : Nat} {v : Byte} (hm : Memory.wf m) (ha : a < 2 ^ 64) :
    Memory.wf (Memory.write m a v) := by
  refine ⟨?_, fun c hc => (Memory.mem_write hc).elim (fun h => h ▸ ha) (hm.2 c)⟩
  have hs := hm.1
  clear hm ha
  induction m with
  | nil => simp [Memory.write]
  | cons d m ih =>
    obtain ⟨b, w⟩ := d
    have hd := List.pairwise_cons.1 hs
    by_cases h₁ : a < b
    · simp only [Memory.write, h₁, if_true]
      exact List.pairwise_cons.2 ⟨fun c hc => by
        rcases List.mem_cons.1 hc with rfl | hc
        · exact h₁
        · exact h₁.trans (hd.1 c hc), hs⟩
    · by_cases h₂ : a = b
      · subst h₂
        simp only [Memory.write, Nat.lt_irrefl, if_false, if_true]
        exact List.pairwise_cons.2 ⟨hd.1, hd.2⟩
      · simp only [Memory.write, h₁, h₂, if_false]
        refine List.pairwise_cons.2 ⟨fun c hc => ?_, ih hd.2⟩
        rcases Memory.mem_write hc with rfl | hc
        · change b < a
          omega
        · exact hd.1 c hc

theorem Memory.writeBytes_wf {m : Memory} {vs : List Byte} {a : Nat} (hm : Memory.wf m) :
    Memory.wf (Memory.writeBytes m a vs) := by
  induction vs generalizing m a with
  | nil => exact hm
  | cons v vs ih =>
    by_cases ha : a < 2 ^ 64
    · simpa only [Memory.writeBytes, ha, if_true] using ih (Memory.write_wf hm ha)
    · simpa only [Memory.writeBytes, ha, if_false] using hm

/-- A byte below the bytes written reads as before. -/
theorem Memory.read_writeBytes_below {m : Memory} {vs : List Byte} {a b : Nat} (h : b < a) :
    (Memory.writeBytes m a vs).read b = Memory.read m b := by
  induction vs generalizing m a with
  | nil => rfl
  | cons v vs ih =>
    by_cases ha : a < 2 ^ 64
    · simp only [Memory.writeBytes, ha, if_true]
      rw [ih (Nat.lt_succ_of_lt h), Memory.read_write_other _ _ (Nat.ne_of_lt h)]
    · simp only [Memory.writeBytes, ha, if_false]

/-- Fetching where bytes were written begins with those bytes, if they lie within the bound. -/
theorem Memory.fetch_writeBytes {m : Memory} {vs : List Byte} {a top n : Nat} (hn : vs.length ≤ n)
    (hv : vs ≠ [] → a + vs.length ≤ top + 1) (ht : top < 2 ^ 64) :
    ∃ tail, Memory.fetch (Memory.writeBytes m a vs) top n a = vs ++ tail := by
  induction vs generalizing m a n with
  | nil => exact ⟨_, rfl⟩
  | cons v vs ih =>
    have hv' := hv (by simp)
    simp only [List.length_cons] at hn hv'
    obtain ⟨k, rfl⟩ : ∃ k, n = k + 1 := ⟨n - 1, by omega⟩
    have ha : a < 2 ^ 64 := by omega
    have hr : (Memory.writeBytes (Memory.write m a v) (a + 1) vs).read a = some v := by
      rw [Memory.read_writeBytes_below (Nat.lt_succ_self a), Memory.read_write_self]
    obtain ⟨tail, ht'⟩ := ih (m := Memory.write m a v) (a := a + 1) (n := k) (by omega) (fun _ => by omega)
    refine ⟨tail, ?_⟩
    simp only [Memory.writeBytes, ha, if_true, Memory.fetch, show a ≤ top by omega, hr, ht', List.cons_append]

/-- A byte that reads is listed. -/
theorem Memory.mem_of_read {m : Memory} {a : Nat} {v : Byte} (h : Memory.read m a = some v) :
    a ∈ m.map Prod.fst := by
  induction m with
  | nil => cases h
  | cons c m ih =>
    unfold Memory.read at h
    split at h
    · next hc => exact hc ▸ List.mem_cons_self ..
    · exact List.mem_cons_of_mem _ (ih h)

/-- A run of listed bytes is no longer than the list. -/
theorem Memory.run_le_length {m : Memory} {a n : Nat} (h : ∀ i < n, (Memory.read m (a + i)).isSome) :
    n ≤ m.length := by
  have hs : List.range' a n ⊆ m.map Prod.fst := fun b hb => by
    obtain ⟨i, hi, rfl⟩ := List.mem_range'.1 hb
    obtain ⟨v, hv⟩ := Option.isSome_iff_exists.1 (h i hi)
    exact Memory.mem_of_read (by simpa using hv)
  simpa using ((List.nodup_range' (step := 1)).subperm hs).length_le

/-- Fetching reads every byte of a run of listed bytes that its fuel and its bound allow. -/
theorem Memory.getElem?_fetch {m : Memory} {a top n i : Nat} (hi : i < n) (ht : a + i ≤ top)
    (h : ∀ j ≤ i, (Memory.read m (a + j)).isSome) : (Memory.fetch m top n a)[i]? = Memory.read m (a + i) := by
  induction n generalizing a i with
  | zero => omega
  | succ n ih =>
    obtain ⟨v, hv⟩ := Option.isSome_iff_exists.1 (h 0 (Nat.zero_le _))
    have hv' : Memory.read m a = some v := hv
    simp only [Memory.fetch, show a ≤ top by omega, if_true, hv']
    cases i with
    | zero => simp [hv']
    | succ i =>
      have := ih (a := a + 1) (i := i) (by omega) (by omega) fun j hj => by
        simpa [Nat.add_right_comm, Nat.add_assoc] using h (j + 1) (by omega)
      simpa [Nat.add_right_comm, Nat.add_assoc, Nat.add_comm 1] using this

/-- A byte written reads back. -/
theorem Memory.read_writeBytes {m : Memory} {vs : List Byte} {a i : Nat} (hi : i < vs.length)
    (ha : a + vs.length ≤ 2 ^ 64) : (Memory.writeBytes m a vs).read (a + i) = vs[i]? := by
  induction vs generalizing m a i with
  | nil => cases hi
  | cons v vs ih =>
    simp only [List.length_cons] at hi ha
    simp only [Memory.writeBytes, show a < 2 ^ 64 by omega, if_true]
    cases i with
    | zero => simpa using (Memory.read_writeBytes_below (Nat.lt_succ_self a)).trans (Memory.read_write_self m a v)
    | succ i =>
      have := ih (m := Memory.write m a v) (a := a + 1) (i := i) (by omega) (by omega)
      simpa [Nat.add_right_comm, Nat.add_assoc, Nat.add_comm 1] using this

/-- Bytes written are no more than the list then holds. -/
theorem Memory.length_le_writeBytes {m : Memory} {vs : List Byte} {a : Nat} (ha : a + vs.length ≤ 2 ^ 64) :
    vs.length ≤ (Memory.writeBytes m a vs).length :=
  Memory.run_le_length fun i hi => by rw [Memory.read_writeBytes hi ha]; simp [hi]

end Sys2Proof.Machine
end

