-- ==== Sys2Proof/Laws/PerInstr.lean ====
section
/-! SUPPORT. Statements about every instruction, one lemma per constructor. -/

namespace Sys2Proof.Laws.RoundTrip

/-- Decoding the encoding of a well-formed instruction, whatever follows it, gives it back with what follows. -/
def Statement (i : Instr) : Prop :=
  i.wellFormed = true → ∀ tail, decode (encodeBytes i ++ tail) (encodeSelector i) = .ok (i, tail)

theorem etrackc : Statement .etrackc := fun _ tail => by
  rw [encodeBytes, encodeSelector, decode_encls, if_pos rfl]

end Sys2Proof.Laws.RoundTrip
end

