-- ==== Sys2Proof/Laws/Run.lean ====
section
/-! SUPPORT. Everything a step of the machine can do, said once: the processor taken, and the two kinds of step. -/

namespace Sys2Proof.Machine

/-- Taking a processor out of a list splits the list. -/
theorem takeLp_eq_some {k : Nat} {ps qs : List LP} {p : LP} (h : takeLp k ps = some (p, qs)) :
    p.id = k ∧ (p :: qs).Perm ps := by
  induction ps generalizing p qs with
  | nil => cases h
  | cons q ps ih =>
    unfold takeLp at h
    split at h
    · next hq =>
      cases h
      exact ⟨hq, .refl _⟩
    · obtain ⟨⟨r, rs⟩, hr, he⟩ := Option.map_eq_some_iff.1 h
      cases he
      obtain ⟨hk, hp⟩ := ih hr
      exact ⟨hk, (List.Perm.swap q _ rs).trans (hp.cons q)⟩

theorem takeLp_eq_none {k : Nat} {ps : List LP} (h : takeLp k ps = none) : ∀ p ∈ ps, p.id ≠ k := by
  induction ps with
  | nil => simp
  | cons q ps ih =>
    unfold takeLp at h
    split at h
    · cases h
    · next hq =>
      intro p hp
      rcases List.mem_cons.1 hp with rfl | hp
      · exact hq
      · exact ih (Option.map_eq_none_iff.1 h) p hp

/-- Everything a change of focus does. -/
theorem focus_eq_some {k : Nat} {s t : State} (h : focus k s = some t) :
    ∃ p ps, t = { s with lp := p, others := ps } ∧ p.id = k ∧ (p :: ps).Perm (s.lp :: s.others) := by
  unfold focus at h
  split at h
  · next hk =>
    cases h
    exact ⟨s.lp, s.others, rfl, hk, .refl _⟩
  · obtain ⟨⟨p, ps⟩, hr, he⟩ := Option.map_eq_some_iff.1 h
    obtain ⟨hk, hp⟩ := takeLp_eq_some hr
    exact ⟨p, s.lp :: ps, he.symm, hk, (List.Perm.swap s.lp p ps).trans (hp.cons s.lp)⟩

/-- Focus fails only where no processor has the name. -/
theorem focus_eq_none {k : Nat} {s : State} (h : focus k s = none) : ∀ p ∈ s.lp :: s.others, p.id ≠ k := by
  unfold focus at h
  split at h
  · cases h
  · next hk =>
    intro p hp
    rcases List.mem_cons.1 hp with rfl | hp
    · exact hk
    · exact takeLp_eq_none (Option.map_eq_none_iff.1 h) p hp

/-- Everything the recording of a refusal does: a next state is the answer's own, or the processor's terminal outcome. -/
theorem recordRefusal_next {s t : State} {r : Result} (h : recordRefusal s r = .next t) :
    r = .next t ∨ ∃ q, r = .refused q ∧ t = takeRefusal q s := by
  cases r with
  | next u => exact .inl h
  | fault f => cases h
  | refused q =>
    cases h
    exact .inr ⟨q, rfl, rfl⟩

/-- A fetch hands an instruction on with the state unchanged, or is refused, or finds an unwritten byte. -/
theorem fetchInstr_cases (s : State) :
    (∃ i tail, modeSupported s.lp.mode = true ∧ decode (fetchBytes s) s.lp.eax = .ok (i, tail) ∧
      fetchInstr s = .execute i s) ∨
    (∃ q, fetchInstr s = .done (.next (takeRefusal q s))) ∨ fetchInstr s = .done (.fault .textUnwritten) := by
  unfold fetchInstr
  cases modeSupported s.lp.mode
  · exact .inr (.inl ⟨_, rfl⟩)
  · cases hd : decode (fetchBytes s) s.lp.eax with
    | ok x => exact .inl ⟨x.1, x.2, rfl, rfl, rfl⟩
    | error e =>
      cases e with
      | truncated =>
        by_cases ht : topAddress s.lp.mode < s.lp.pc.toNat + (fetchBytes s).length
        · exact .inr (.inl ⟨.pcWrap, by simp [fetchStop, ht, recordRefusal]⟩)
        · exact .inr (.inr (by simp [fetchStop, ht, recordRefusal]))
      | _ => exact .inr (.inl ⟨_, rfl⟩)

/-- The inversion of a step: a next state comes of TrackingProgress, or of an execution by a processor without a terminal
outcome, which is ETRACKC or is refused and recorded so. -/
theorem step_next {s t : State} (h : step s = .next t) :
    (∃ a v rest, s.schedule = .trackingProgress a v :: rest ∧
      t = trackingProgress a v { s with schedule := rest }) ∨
    ∃ k l rest s', s.schedule = .encls k l :: rest ∧ focus k { s with schedule := rest } = some s' ∧
      s'.lp.terminal = false ∧
      (execEtrackc (beginExecution l s') = .next t ∨ ∃ q, t = takeRefusal q (beginExecution l s')) := by
  unfold step turn at h
  cases hs : s.schedule with
  | nil => simp [hs] at h
  | cons e rest =>
    cases e with
    | trackingProgress a v =>
      refine .inl ⟨a, v, rest, rfl, ?_⟩
      simp only [hs, Host.Outcome.next.injEq] at h
      exact h.symm
    | encls k l =>
      refine .inr ⟨k, l, rest, ?_⟩
      simp only [hs] at h
      cases hf : focus k { s with schedule := rest } with
      | none => simp [hf] at h
      | some s' =>
        simp only [hf, enclsTurn] at h
        cases ht : s'.lp.terminal
        · rcases fetchInstr_cases (beginExecution l s') with ⟨i, _, _, _, hi⟩ | ⟨q, hq⟩ | hu
          · simp only [ht, hi, Bool.false_eq_true, if_false] at h
            cases i
            exact ⟨s', rfl, rfl, ht, (recordRefusal_next h).imp_right fun ⟨q, _, hq⟩ => ⟨q, hq⟩⟩
          · simp only [ht, hq, Bool.false_eq_true, if_false, Host.Outcome.next.injEq] at h
            exact ⟨s', rfl, rfl, ht, .inr ⟨q, h.symm⟩⟩
          · simp [ht, hu] at h
        · simp [ht] at h

end Sys2Proof.Machine
end

