-- ==== Sys2Proof/Tests/Slice0.lean ====
section
/-! SUPPORT. Tests and witnesses on the platform T of 95_test_vectors.md section 2.1. Expected results are the vectors
V<n> of that file; a witness_<Name> shows a concrete state that meets the hypotheses of Obligations.<Name>. -/

namespace Sys2Proof.Tests

open Sys2Proof.Machine

/-! ### Well-formedness: each check refuses an ill-formed term -/

theorem test_etrackc_wellFormed : Instr.wellFormed .etrackc = true := by decide

theorem test_customary_wellFormed : customaryConfig.wellFormed = true := by decide

theorem test_laBits_zero_refused : Config.wellFormed { customaryConfig with laBits := 0 } = false := by decide

theorem test_paBits_above_64_refused : Config.wellFormed { customaryConfig with paBits := 65 } = false := by decide

theorem test_enclaveContextBits_above_64_refused :
    Config.wellFormed { customaryConfig with enclaveContextBits := 65 } = false := by decide

theorem test_two_bit_pfecSgx_refused : Config.wellFormed { customaryConfig with pfecSgx := 0x8001 } = false := by decide

theorem test_equal_codes_refused :
    Config.wellFormed { customaryConfig with qualTrackingReferenceConflict := 0 } = false := by decide

/-! ### Decoding: the word of the opcode table, written out bit by bit -/

theorem test_decode_etrackc_bits :
    decode [0b00001111, 0b00000001, 0b11001111] 0b00000000000000000000000000010001 = .ok (.etrackc, []) := by decide

theorem test_table_word : decodeTableWord 32 0b10001 = some .etrackc := by decide

/-- V62: all 32 bits of EAX are compared. -/
theorem test_other_leaf : decode enclsBytes 0x111 = .error (.otherLeaf 0x111) := by decide

/-- V63, with a LOCK, a REX, and a VEX prefix. -/
theorem test_prefixed :
    decode [0xF0, 0x0F, 0x01, 0xCF] 0x11 = .error .prefixed ∧ decode [0x48, 0x0F, 0x01, 0xCF] 0x11 = .error .prefixed ∧
      decode [0xC5, 0xF8, 0x01, 0xCF] 0x11 = .error .prefixed := by decide

/-- V63 behind 20 prefixes; and prefixes alone, which no ENCLS follows yet. -/
theorem test_many_prefixes :
    decode (List.replicate 20 0x66 ++ enclsBytes) 0x0C = .error .prefixed ∧
      decode (List.replicate 20 0x66) 0x11 = .error .truncated := by decide

/-- P1, from the launch state: the table's word placed, the next step fetches and runs it. -/
theorem test_reset_runs_placed_word :
    ∃ t, step (State.reset.withFetchWord 32 0x11) = .next t ∧ t.lp.outcome.isSome = true := ⟨_, rfl, rfl⟩

/-! ### Platform T -/

def secsA : Secs := ⟨0, 0x0000000012340000, 100⟩
def secsB : Secs := ⟨2, 0x0000000056780000, 200⟩
def noSecs : Secs := ⟨0, 0, 0⟩

/-- The EPC of T: two enclaves A and B, an untracked page, and an invalid page whose stale type is untracked (V13). -/
def epcT : Epc :=
  [(0x80000000, ⟨true, .secs, 0, secsA⟩), (0x80001000, ⟨true, .tcs, 0x80000000, noSecs⟩),
   (0x80002000, ⟨true, .reg, 0x80000000, noSecs⟩), (0x80003000, ⟨true, .trim, 0x80000000, noSecs⟩),
   (0x80004000, ⟨true, .other 3, 0, noSecs⟩), (0x80005000, ⟨false, .other 3, 0, noSecs⟩),
   (0x80006000, ⟨true, .secs, 0, secsB⟩), (0x80007000, ⟨true, .reg, 0x80006000, noSecs⟩)]

/-- A processor of T: all six flags set, ETRACKC selected, identity translation below 4 GBytes but for one page. -/
def lpT (id : Nat) (rcx : Word) : LP :=
  { LP.reset with
    id := id, rax := 0x11, rcx := rcx, pc := 0x401000, flags := ⟨true, true, true, true, true, true⟩
    ds := ⟨true, 0, []⟩
    translation := [⟨.readWrite, 0x200, 1, .fault 2⟩, ⟨.readWrite, 0, 0x100000, .frames 0⟩] }

/-- The machine of T, its first processor's operand being `rcx`. -/
def stT (rcx : Word) : State :=
  { State.reset with lp := lpT 0 rcx, others := [lpT 1 0x80001000], epc := epcT }

/-- T with a processor in protected mode. -/
def stP (rcx : Word) : State := { stT rcx with lp := { lpT 0 rcx with mode := .prot32 } }

/-- T as a VMX guest with the execution control set (section 2.3). -/
def stV (rcx : Word) : State :=
  { stT rcx with lp := { lpT 0 rcx with vmxNonRoot := true, vmcs := ⟨true, 0, 0, 0, 0, 0⟩ } }

/-- The state with the environment answering that the facility is busy. -/
def busy (s : State) : State := { s with draws := { s.draws with trackingFacilityBusy := true } }

/-- The state with the environment answering that the page is being modified. -/
def modified (s : State) : State := { s with draws := { s.draws with pageBeingModified := true } }

/-- T with an ENCLS at pc, no concurrent SGX agents, and the first processor's turn next (P1). -/
def stRun (k : Nat) : State :=
  { stT 0x80002000 with
    cfg := { customaryConfig with noConcurrentSGX := true }
    text := Memory.writeBytes [] 0x401000 enclsBytes
    schedule := [.encls k ⟨some 0x11, some 0x80002000⟩] }

/-- A processor that has raised #GP (Q5). -/
def faulted : LP := { lpT 1 0 with outcome := some (.exception (.gp 0)) }

theorem leafT : (0x11 : Word).setWidth 32 = 0x11#32 := by decide

theorem sgxT : sgxWellFormed epcT = true := by decide

theorem roomT (m : Mode) : (0x401000 : Word).toNat + 3 ≤ topAddress m := by cases m <;> decide

theorem baseT : pageAligned 0 = true := by decide

theorem admittedT (rcx : Word) : Admitted (stT rcx) :=
  ⟨⟨.inl rfl, leafT, sgxT, fun _ => baseT, roomT .mode64⟩, rfl, rfl⟩

theorem admittedP (rcx : Word) : Admitted (stP rcx) :=
  ⟨⟨.inr rfl, leafT, sgxT, fun _ => baseT, roomT .prot32⟩, rfl, rfl⟩

theorem admittedV (rcx : Word) : Admitted (stV rcx) :=
  ⟨⟨.inl rfl, leafT, sgxT, fun _ => baseT, roomT .mode64⟩, rfl, rfl⟩

theorem invT : Inv (stRun 0) := by
  refine ⟨by decide, by decide, ⟨by decide, by decide, by decide, by decide, by decide, by decide⟩, ?_, by decide⟩
  intro p hp
  rcases List.mem_cons.1 hp with rfl | hp
  · exact ⟨by decide, by decide, by decide⟩
  · rw [List.mem_singleton.1 hp]
    exact ⟨by decide, by decide, by decide⟩

/-! ### The instruction: V1 and V21 -/

/-- V1: RAX, the flags, pc, and TRACKING drawn (here 5). -/
theorem test_success :
    ∃ t, exec .etrackc { stT 0x80002000 with draws := { Draws.reset with tracking := 5 } } = .next t ∧
      t.lp.rax = 0 ∧ t.lp.flags = ⟨false, false, false, false, false, false⟩ ∧ t.lp.pc = 0x401003 ∧
      (t.epc.page? 0x80000000).map (fun p => p.secs.tracking) = some 5 := ⟨_, rfl, rfl, rfl, rfl, rfl⟩

/-- V21: the VM exit on an incomplete cycle; the guest is unchanged. -/
theorem test_vm_exit :
    ∃ t, exec .etrackc (stV 0x80007000) = .next t ∧ t.lp.vmcs = ⟨true, 0, 1, 0, 0x56780000, 0⟩ ∧ t.lp.rax = 0x11 ∧
      t.lp.flags = (stV 0x80007000).lp.flags ∧ t.lp.pc = 0x401000 := ⟨_, rfl, rfl, rfl, rfl, rfl⟩

/-! ### Witnesses: the operand and the paths -/

theorem resolvesT (rcx : Word) (pa : Word) (p : EpcPage) (h : resolveOperand (stT rcx) = .page pa p) :
    OperandResolves (stT rcx) pa p := (resolveOperand_page_iff (admittedT rcx) pa p).1 h

/-- V6 and V13: the invalid page. -/
theorem resolves_invalid : OperandResolves (stT 0x80005000) 0x80005000 ⟨false, .other 3, 0, noSecs⟩ :=
  resolvesT _ _ _ rfl

/-- V5: the untracked page. -/
theorem resolves_other : OperandResolves (stT 0x80004000) 0x80004000 ⟨true, .other 3, 0, noSecs⟩ :=
  resolvesT _ _ _ rfl

/-- V1 to V4: a regular, a TCS, a trimmed and a SECS page of enclave A. -/
theorem resolves_reg : OperandResolves (stT 0x80002000) 0x80002000 ⟨true, .reg, 0x80000000, noSecs⟩ :=
  resolvesT _ _ _ rfl

theorem resolves_tcs : OperandResolves (stT 0x80001000) 0x80001000 ⟨true, .tcs, 0x80000000, noSecs⟩ :=
  resolvesT _ _ _ rfl

theorem resolves_trim : OperandResolves (stT 0x80003000) 0x80003000 ⟨true, .trim, 0x80000000, noSecs⟩ :=
  resolvesT _ _ _ rfl

theorem resolves_secs : OperandResolves (stT 0x80000000) 0x80000000 ⟨true, .secs, 0, secsA⟩ :=
  resolvesT _ _ _ rfl

/-- Resolving the operand depends on no draw but the oracle's. -/
theorem resolves_draws {s : State} {pa : Word} {p : EpcPage} (h : OperandResolves s pa p) (d : Draws)
    (hd : d.oraclePfec = s.draws.oraclePfec) : OperandResolves { s with draws := d } pa p :=
  have ha := h.admitted
  ⟨⟨⟨ha.mode, ha.leaf, ha.sgx, ha.dsBase, ha.room⟩, ha.feature, ha.cpl⟩, h.aligned, h.long, h.segment,
    hd ▸ h.translated, h.inEpc⟩

/-- V9. -/
theorem witness_PageBeingModifiedReturnsConflict :
    OperandResolves (modified (stT 0x80002000)) 0x80002000 ⟨true, .reg, 0x80000000, noSecs⟩ ∧
      pageBeingModified (modified (stT 0x80002000)) = true :=
  ⟨resolves_draws resolves_reg _ rfl, rfl⟩

/-- V6; the second state differs in the stale fields of the invalid entry. -/
theorem witness_InvalidPageReturnsPgInvld :
    OperandResolves (stT 0x80005000) 0x80005000 ⟨false, .other 3, 0, noSecs⟩ ∧
      pageBeingModified (stT 0x80005000) = false ∧
      OperandResolves (stT 0x80005000) 0x80005000 { (⟨false, .other 3, 0, noSecs⟩ : EpcPage) with pt := .other 3 } ∧
      { stT 0x80005000 with epc := (stT 0x80005000).epc } = stT 0x80005000 :=
  ⟨resolves_invalid, rfl, resolves_invalid, rfl⟩

/-- V5, V1 to V3, V4: the three clauses. -/
theorem witness_PageTypeFindsTheSecs :
    OperandResolves (stT 0x80004000) 0x80004000 ⟨true, .other 3, 0, noSecs⟩ ∧
      OperandResolves (stT 0x80003000) 0x80003000 ⟨true, .trim, 0x80000000, noSecs⟩ ∧
      OperandResolves (stT 0x80000000) 0x80000000 ⟨true, .secs, 0, secsA⟩ ∧
      pageBeingModified (stT 0x80004000) = false ∧ pageBeingModified (stT 0x80003000) = false ∧
      pageBeingModified (stT 0x80000000) = false := ⟨resolves_other, resolves_trim, resolves_secs, rfl, rfl, rfl⟩

/-- V1: enclave A's SECS reached through a regular page. -/
theorem reachedA : SecsReached (stT 0x80002000) 0x80000000 secsA :=
  ⟨⟨_, _, resolves_reg, rfl, .inl ⟨.inl rfl, rfl⟩⟩, rfl, ⟨_, rfl, rfl⟩⟩

/-- V8: enclave B's SECS as the operand itself. -/
theorem reachedB : SecsReached (stT 0x80006000) 0x80006000 secsB :=
  ⟨⟨_, _, resolvesT 0x80006000 0x80006000 ⟨true, .secs, 0, secsB⟩ rfl, rfl, .inr ⟨rfl, rfl⟩⟩, rfl, ⟨_, rfl, rfl⟩⟩

/-- V11: reaching a SECS does not depend on the facility. -/
theorem reached_busy {s : State} {a : Nat} {q : Secs} (h : SecsReached s a q) : SecsReached (busy s) a q := by
  obtain ⟨⟨pa, p, ho, hv, ht⟩, hm, hs⟩ := h
  exact ⟨⟨pa, p, resolves_draws ho _ rfl, hv, ht⟩, hm, hs⟩

theorem witness_BusyFacilityReturnsConflict :
    SecsReached (busy (stT 0x80002000)) 0x80000000 secsA ∧ trackingFacilityBusy (busy (stT 0x80002000)) = true ∧
      ((busy (stT 0x80002000)).lp.vmxNonRoot &&
        (busy (stT 0x80002000)).lp.vmcs.enableEpcVirtualizationExtensions) = false :=
  ⟨reached_busy reachedA, rfl, rfl⟩

theorem witness_IncompleteCycleReturnsPrevTrkIncmpl :
    SecsReached (stT 0x80006000) 0x80006000 secsB ∧ trackingFacilityBusy (stT 0x80006000) = false ∧
      secsB.tracking ≠ 0 ∧
      ((stT 0x80006000).lp.vmxNonRoot && (stT 0x80006000).lp.vmcs.enableEpcVirtualizationExtensions) = false :=
  ⟨reachedB, rfl, by decide, rfl⟩

/-- V20 and V23: both causes. -/
theorem witness_TrackingConflictExitsToTheMonitor :
    SecsReached (busy (stV 0x80002000)) 0x80000000 secsA ∧ trackingFacilityBusy (busy (stV 0x80002000)) = true ∧
      SecsReached (stV 0x80006000) 0x80006000 secsB ∧ secsB.tracking ≠ 0 ∧ (stV 0x80006000).lp.vmxNonRoot = true ∧
      (stV 0x80006000).lp.vmcs.enableEpcVirtualizationExtensions = true :=
  ⟨reached_busy ⟨⟨0x80002000, ⟨true, .reg, 0x80000000, noSecs⟩,
      (resolveOperand_page_iff (admittedV _) _ _).1 rfl, rfl, .inl ⟨.inl rfl, rfl⟩⟩, rfl, ⟨_, rfl, rfl⟩⟩, rfl,
    ⟨⟨0x80006000, ⟨true, .secs, 0, secsB⟩, (resolveOperand_page_iff (admittedV _) _ _).1 rfl, rfl, .inr ⟨rfl, rfl⟩⟩, rfl,
      ⟨_, rfl, rfl⟩⟩, by decide, rfl, rfl⟩

theorem witness_SuccessStartsATrackingCycle :
    SecsReached (stT 0x80002000) 0x80000000 secsA ∧ trackingFacilityBusy (stT 0x80002000) = false ∧
      secsA.tracking = 0 := ⟨reachedA, rfl, rfl⟩

theorem page_secsA (f : Secs → Secs) :
    (Epc.updateSecs f epcT 0x80000000).page? 0x80000000 = some ⟨true, .secs, 0, f secsA⟩ := by
  rw [Epc.page?_updateSecs_self]
  rfl

/-- T with another well-formed EPC that has the same TCS page still reaches the SECS it leads to. -/
theorem reached_after {e : Epc} {sp : EpcPage} (hw : sgxWellFormed e = true)
    (hp : e.page? 0x80001000 = some ⟨true, .tcs, 0x80000000, noSecs⟩) (hq : e.page? 0x80000000 = some sp) :
    SecsReached { stT 0x80001000 with epc := e } 0x80000000 sp.secs :=
  have h := resolves_tcs
  ⟨⟨0x80001000, ⟨true, .tcs, 0x80000000, noSecs⟩, ⟨⟨⟨.inl rfl, leafT, hw, fun _ => baseT, roomT .mode64⟩, rfl, rfl⟩,
    h.aligned, h.long, h.segment, h.translated, hp⟩, rfl, .inl ⟨.inr (.inl rfl), rfl⟩⟩, rfl, sp, hq, rfl⟩

/-- Q1, both ways: two starts on enclave A, whatever TRACKING is drawn by the first. -/
theorem witness_SecondStartDependsOnTheDraw (v : Nat) :
    ∃ s t u q', s.draws.tracking = v ∧ SecsReached s 0x80000000 secsA ∧ exec .etrackc s = .next t ∧
      t.lp.outcome = some (.completed .noError) ∧ u.epc = t.epc ∧ SecsReached u 0x80000000 q' ∧
      trackingFacilityBusy u = false ∧ (u.lp.vmxNonRoot && u.lp.vmcs.enableEpcVirtualizationExtensions) = false := by
  have hr := resolves_draws resolves_reg { Draws.reset with tracking := v } rfl
  have hs : OnSecs { stT 0x80002000 with draws := { Draws.reset with tracking := v } } 0x80000000
      ⟨true, .secs, 0, secsA⟩ := ⟨⟨_, _, hr, rfl, rfl⟩, rfl, rfl⟩
  have he := execEtrackc_of_ends hr.admitted.toUnrefused (.success hs rfl rfl)
  have hq := page_secsA (fun q => { q with
    trackState := Config.startTrackingCycle q.trackState, tracking := trackingField customaryConfig v })
  have hp := Epc.page?_updateSecs_other (fun q => { q with
    trackState := Config.startTrackingCycle q.trackState, tracking := trackingField customaryConfig v }) epcT
    (a := 0x80000000) (b := 0x80001000) (by decide)
  have hu := reached_after ((sgxWellFormed_updateSecs _ epcT 0x80000000).trans sgxT) (hp.trans rfl) hq
  refine ⟨_, _, _, _, rfl, ⟨⟨_, _, hr, rfl, .inl ⟨.inl rfl, rfl⟩⟩, rfl, _, rfl, rfl⟩, he, rfl, ?_, hu, rfl, rfl⟩
  rfl

/-- V1 under NoConcurrentSGX. -/
theorem witness_BootRequirementsSuffice :
    OperandResolves (stRun 0) 0x80002000 ⟨true, .reg, 0x80000000, noSecs⟩ ∧ (stRun 0).cfg.noConcurrentSGX = true ∧
      (∀ sp, (stRun 0).epc.page? 0x80000000 = some sp → sp.secs.tracking = 0) ∧ ∀ n, PageType.reg ≠ .other n := by
  refine ⟨(resolveOperand_page_iff ⟨⟨.inl rfl, by decide, by decide, by decide, by decide⟩, rfl, rfl⟩ _ _).1 rfl, rfl,
    fun sp h => ?_, by simp⟩
  cases h
  rfl

/-- V9, V6, V5, V11, V20, V7, V21, V4: each case of the chain. -/
theorem witness_OperationFollowsItsOrder :
    OperandResolves (modified (stT 0x80002000)) 0x80002000 ⟨true, .reg, 0x80000000, noSecs⟩ ∧
      OperandResolves (stT 0x80005000) 0x80005000 ⟨false, .other 3, 0, noSecs⟩ ∧
      OperandResolves (stT 0x80004000) 0x80004000 ⟨true, .other 3, 0, noSecs⟩ ∧
      OperandResolves (busy (stT 0x80002000)) 0x80002000 ⟨true, .reg, 0x80000000, noSecs⟩ ∧
      OperandResolves (busy (stV 0x80002000)) 0x80002000 ⟨true, .reg, 0x80000000, noSecs⟩ ∧
      OperandResolves (stT 0x80007000) 0x80007000 ⟨true, .reg, 0x80006000, noSecs⟩ ∧
      OperandResolves (stV 0x80007000) 0x80007000 ⟨true, .reg, 0x80006000, noSecs⟩ ∧
      OperandResolves (stT 0x80000000) 0x80000000 ⟨true, .secs, 0, secsA⟩ :=
  ⟨resolves_draws resolves_reg _ rfl, resolves_invalid, resolves_other, resolves_draws resolves_reg _ rfl,
    resolves_draws ((resolveOperand_page_iff (admittedV 0x80002000) _ _).1 rfl) _ rfl, resolvesT _ _ _ rfl,
    (resolveOperand_page_iff (admittedV _) _ _).1 rfl, resolves_secs⟩

/-! ### Witnesses: S0 to S3 -/

/-- V64, V60, V65, V69, V66, V67: each clause of the chain at a boundary. -/
theorem witness_RefusalsComeInOrder :
    Mode.realAddress ≠ .mode64 ∧
      (0x0C : Word).setWidth 32 ≠ 0x11#32 ∧
      sgxWellFormed ((0x80008000, ⟨true, .reg, 0x80004000, noSecs⟩) :: epcT) = false ∧
      (0x800 : Word).setWidth 12 ≠ 0#12 ∧
      (0xFFFFFFFFFFFFFFFE : Word).toNat + 3 > 2 ^ 64 - 1 ∧ ¬(0xFFFFFFFFFFFFFFFC : Word).toNat + 3 > 2 ^ 64 - 1 ∧
      Unrefused (stT 0) := ⟨by decide, by decide, by decide, by decide, by decide, by decide, (admittedT 0).toUnrefused⟩

/-- T meets the launch premises, and its second processor, not the first, is taken. -/
theorem witness_LaunchedProcessorRunsEtrackc :
    Launch (stT 0x80002000) ∧ (∃ s', focus 1 (stT 0x80002000) = some s') ∧ (0x11 : Word).setWidth 32 = 0x11#32 := by
  refine ⟨⟨?_, rfl, sgxT, by decide, ?_, ?_, ?_⟩, ⟨_, rfl⟩, leafT⟩ <;>
    (intro p hp; rcases List.mem_cons.1 hp with rfl | hp; · decide) <;> (rw [List.mem_singleton.1 hp]; decide)

/-- V57: the feature test comes before the privilege test. -/
theorem witness_MissingFeatureIsLeafUnavailable :
    ∃ s : State, Unrefused s ∧ s.cfg.featureEtrackc = false ∧ s.lp.cpl = 3 :=
  have h := admittedT 0x80002000
  ⟨{ stT 0x80002000 with
      cfg := { customaryConfig with featureEtrackc := false }
      lp := { lpT 0 0x80002000 with cpl := 3 } }, ⟨.inl rfl, h.leaf, h.sgx, h.dsBase, h.room⟩, rfl, rfl⟩

/-- V54: a misaligned operand at CPL 3. -/
theorem witness_UserModeIsNotCPL0 :
    ∃ s : State, Unrefused s ∧ s.cfg.featureEtrackc = true ∧ s.lp.cpl ≠ 0 ∧
      pageAligned (linearAddress s.lp) = false :=
  have h := admittedT 0x80002008
  ⟨{ stT 0x80002008 with lp := { lpT 0 0x80002008 with cpl := 3 } }, ⟨.inl rfl, h.leaf, h.sgx, h.dsBase, h.room⟩, rfl,
    by decide, by decide⟩

theorem witness_UnprivilegedCodeLearnsNothingOfTheEpc :
    ∃ s t : State, s.lp.cpl ≠ 0 ∧ sgxWellFormed s.epc = true ∧ sgxWellFormed [] = true ∧ exec .etrackc s = .next t :=
  ⟨{ stT 0x80002000 with lp := { lpT 0 0x80002000 with cpl := 3 } }, _, by decide, by decide, by decide, rfl⟩

/-- V43: misaligned and outside the EPC; and the corner values of the rule. -/
theorem witness_MisalignedOperandRaisesGP :
    Admitted (stT 0x10008) ∧ (linearAddress (stT 0x10008).lp).setWidth 12 ≠ 0#12 ∧
      (stT 0xFFF).lp.mode = .mode64 ∧ (stT 0x1000).lp.rcx = 0x1000 ∧ (stP 0x0000000100000800).lp.mode = .prot32 ∧
      pageAligned (stP 0xFFFFFFFF00001000).lp.ds.base = true :=
  ⟨admittedT _, by decide, rfl, rfl, rfl, by decide⟩

/-- V82, V84, V85: the three cases, and V80: none of them. -/
theorem witness_ProtectedModeGPCases :
    Admitted (stP 0x0000000100000800) ∧ (linearAddress (stP 0x0000000100000800).lp).setWidth 12 ≠ 0#12 ∧
      Admitted { stP 0x1000 with lp := { (stP 0x1000).lp with ds := ⟨false, 0, []⟩ } } ∧
      dsViolation ⟨true, 0, [⟨.readWrite, 0x80002000, 4096⟩]⟩ (effectiveAddress (stP 0x80002000).lp) .readWrite = true ∧
      Admitted (stP 0x80002000) :=
  ⟨admittedP _, by decide, ⟨⟨.inr rfl, by decide, by decide, fun _ => by decide, by decide⟩, rfl, rfl⟩, by decide,
    admittedP _⟩

/-- V48, V41, V50: both cases, and neither. -/
theorem witness_LongModeGPCases :
    Admitted (stT 0x0000800000000000) ∧ canonical 48 (linearAddress (stT 0x0000800000000000).lp) = false ∧
      (linearAddress (stT 0x80002FFF).lp).setWidth 12 ≠ 0#12 ∧
      canonical 48 (linearAddress (stT 0xFFFF800000000000).lp) = true :=
  ⟨admittedT _, by decide, by decide, by decide⟩

/-- V48 to V51: the last canonical address below, the first non-canonical one, the first canonical one above. -/
theorem witness_CanonicalMeansEqualTopBits :
    canonical 48 0x00007FFFFFFFF000 = true ∧ canonical 48 0x0000800000000000 = false ∧
      canonical 48 0xFFFF800000000000 = true := by decide

/-- V87 and V88: the base is added, and the sum wraps at 2^32. -/
theorem witness_LinearAddressOfTheOperand :
    linearAddress { (stP 0x70002000).lp with ds := ⟨true, 0x10000000, []⟩ } = 0x80002000 ∧
      linearAddress { (stP 0xF0002000).lp with ds := ⟨true, 0x90000000, []⟩ } = 0x80002000 ∧
      (stT 0x80002000).lp.mode = .mode64 := by decide

/-- V46. -/
theorem witness_TranslationFaultRaisesPF :
    Admitted (stT 0x200000) ∧ pageAligned (linearAddress (stT 0x200000).lp) = true ∧
      canonical 48 (linearAddress (stT 0x200000).lp) = true ∧
      translateAddress (stT 0x200000).lp.translation 0 (linearAddress (stT 0x200000).lp) .readWrite = .pageFault 2 :=
  ⟨admittedT _, by decide, by decide, by decide⟩

/-- V45, and V90 in protected mode. -/
theorem witness_OperandOutsideEpcRaisesPF :
    Admitted (stT 0x10000) ∧ pageAligned (linearAddress (stT 0x10000).lp) = true ∧
      canonical 48 (linearAddress (stT 0x10000).lp) = true ∧ Admitted (stP 0x10000) ∧
      dsViolation (stP 0x10000).lp.ds (effectiveAddress (stP 0x10000).lp) .readWrite = false ∧
      translateAddress (stT 0x10000).lp.translation 0 (linearAddress (stT 0x10000).lp) .readWrite = .ok 0x10000 ∧
      (stT 0x10000).epc.page? (pageKey 0x10000) = none :=
  ⟨admittedT _, by decide, by decide, admittedP _, by decide, by decide, by decide⟩

theorem witness_TranslationKeepsThePageOffset :
    translateAddress [⟨.read, 0, 16, .frames 0x80⟩] 0 0x5678 .read = .ok 0x85678 := by decide

/-! ### Witnesses: the step -/

theorem witness_StepKeepsMachineInvariant : Inv (stRun 0) ∧ ∃ t, step (stRun 0) = .next t := ⟨invT, _, rfl⟩

theorem witness_StepRunsDecodedInstruction :
    ∃ s', focus 1 { stRun 1 with schedule := [] } = some s' ∧ s'.lp.terminal = false ∧
      modeSupported s'.lp.mode = true ∧
      decode (fetchBytes (beginExecution ⟨some 0x11, some 0x80002000⟩ s'))
        (beginExecution ⟨some 0x11, some 0x80002000⟩ s').lp.eax = .ok (.etrackc, []) := ⟨_, rfl, rfl, rfl, rfl⟩

/-- T with the first processor's ENCLS refused for malformed SGX structures (V65). -/
def stMalformed : State := { stRun 0 with epc := (0x7FFFF000, ⟨true, .reg, 0x80004000, noSecs⟩) :: epcT }

/-- The second clause: the execution is refused, which the step records. -/
theorem witness_StepRunsDecodedInstruction_refused :
    ∃ b t, exec .etrackc b = .refused .sgxNotWellFormed ∧ step stMalformed = .next t ∧
      t.lp.outcome = some (.refused .sgxNotWellFormed) ∧ t = { b with lp := t.lp } :=
  ⟨beginExecution ⟨some 0x11, some 0x80002000⟩ { stMalformed with schedule := [] }, _, rfl, rfl, rfl, rfl⟩

/-- The next event is another processor's, which has EAX = 11H and finds all as it was (R137). -/
theorem witness_OtherProcessorsGoOnAfterATerminalOutcome :
    ∃ s t, s = { stRun 0 with schedule := [.encls 0 ⟨some 0x0C, none⟩, .encls 1 ⟨some 0x11, some 0x80002000⟩] } ∧
      ((s.lp :: s.others).map LP.id).Nodup ∧ step s = .next t ∧
      t.lp.outcome = some (.refused (.otherLeaf 0x0C)) ∧ t.lp.terminal = true ∧
      lpT 1 0x80001000 ∈ s.lp :: s.others ∧ (lpT 1 0x80001000).id ≠ 0 :=
  ⟨_, _, rfl, by decide, rfl, rfl, rfl, List.mem_cons_of_mem _ (List.mem_cons_self ..), by decide⟩

/-- T with its first processor's ENCLS behind 20 prefixes. -/
def stPrefixed : State :=
  { stRun 0 with text := Memory.writeBytes [] 0x401000 (List.replicate 20 0x66 ++ enclsBytes) }

/-- V63 and V64: a prefixed form in a supported mode, and an unsupported mode. -/
theorem witness_PrefixedFormIsRefused :
    stPrefixed.schedule = .encls 0 ⟨some 0x11, some 0x80002000⟩ :: [] ∧
      focus 0 { stPrefixed with schedule := [] } = some { stPrefixed with schedule := [] } ∧
      stPrefixed.lp.terminal = false ∧ modeSupported stPrefixed.lp.mode = true ∧
      decode (fetchBytes stPrefixed) 0x0C = .error .prefixed ∧ modeSupported .compatibility = false :=
  ⟨rfl, rfl, rfl, rfl, rfl, rfl⟩

/-- The last byte of a 23-byte instruction. -/
theorem witness_FetchReadsEveryListedByte :
    stPrefixed.lp.pc.toNat + 22 ≤ topAddress stPrefixed.lp.mode ∧
      (∀ j ≤ 22, (Memory.read stPrefixed.text (stPrefixed.lp.pc.toNat + j)).isSome = true) ∧
      (fetchBytes stPrefixed)[22]? = some 0xCF := by decide

theorem witness_PrefixesOfAnyLengthAreSeen :
    (∀ x ∈ List.replicate 20 (0x66 : Byte), isPrefix x = true) ∧ List.replicate 20 (0x66 : Byte) ≠ [] := by decide

theorem witness_FocusSelectsTheNamedProcessor :
    (∃ t, focus 1 (stT 0) = some t) ∧ (focus 2 (stT 0)).isNone = true := ⟨⟨_, rfl⟩, rfl⟩

theorem witness_TrackingProgressSetsTrackingOnly :
    ({ stT 0 with schedule := [.trackingProgress 0x80006000 0] } : State).schedule =
        .trackingProgress 0x80006000 0 :: [] ∧ (stT 0).epc.page? 0x80006000 = some ⟨true, .secs, 0, secsB⟩ := ⟨rfl, rfl⟩

theorem witness_ExhaustedScheduleEndsTheRun : State.reset.schedule = [] := rfl

/-- Q5. -/
theorem witness_TerminalProcessorHasNoFurtherStep :
    ∃ s', focus 1 { stRun 1 with others := [faulted], schedule := [] } = some s' ∧
      s'.lp.outcome = some (.exception (.gp 0)) ∧ ∀ c, LpOutcome.exception (.gp 0) ≠ .completed c :=
  ⟨_, rfl, rfl, fun _ h => by cases h⟩

theorem witness_TerminalProcessorNeverChanges :
    faulted ∈ ({ stRun 0 with others := [faulted] } : State).lp :: [faulted] ∧ faulted.terminal = true ∧
      ∃ t, step { stRun 0 with others := [faulted] } = .next t := ⟨by simp, rfl, _, rfl⟩

theorem witness_OtherProcessorsAreUntouched : ∃ t, step (stRun 1) = .next t := ⟨_, rfl⟩

theorem witness_StepKeepsProgramTextAndEpcm : ∃ t, step (stRun 0) = .next t := ⟨_, rfl⟩

/-- At the highest pc that leaves room, and with a word of another leaf (V60). -/
theorem witness_PlacedWordIsFetched :
    modeSupported State.reset.lp.mode = true ∧ (0xFFFFFFFFFFFFFFFD : Word).toNat + 2 ≤ topAddress .mode64 ∧
      0x500000011 % 2 ^ 32 = 0x11 ∧ 0x0C % 2 ^ 32 ≠ 0x11 := by decide

/-! ### Witnesses: what every execution does and leaves -/

/-- V7 under the default parameters: a completion with code 17. -/
theorem completes_17 : ∃ t, exec .etrackc (stT 0x80007000) = .next t ∧
    t.lp.outcome = some (.completed .prevTrkIncmpl) := ⟨_, rfl, rfl⟩

/-- V7: all six flags set before. -/
theorem witness_CompletionClearsFourFlags :
    (∃ t, exec .etrackc (stT 0x80007000) = .next t ∧ t.lp.outcome = some (.completed .prevTrkIncmpl)) ∧
      pageBeingModified (stT 0x80007000) = false := ⟨completes_17, rfl⟩

/-- V9: the S4 path. -/
theorem witness_ClearedParameterClearsFourFlags :
    (∃ t, exec .etrackc (modified (stT 0x80002000)) = .next t ∧
      t.lp.outcome = some (.completed .epcPageConflict)) ∧
      (modified (stT 0x80002000)).cfg.conflictPathFlags = .cleared := ⟨⟨_, rfl, rfl⟩, rfl⟩

theorem witness_ReturnCodesAndFlagsAgree : ∃ t, exec .etrackc (stT 0x80007000) = .next t ∧
    t.lp.outcome = some (.completed .prevTrkIncmpl) := completes_17

/-- V1, success, with the SECS it changes; and V7, no success. -/
theorem witness_EtrackcFrame :
    (∃ t, exec .etrackc (stT 0x80002000) = .next t ∧ t.lp.outcome = some (.completed .noError)) ∧
      OperandResolves (stT 0x80002000) 0x80002000 ⟨true, .reg, 0x80000000, noSecs⟩ ∧
      targetSecs 0x80002000 ⟨true, .reg, 0x80000000, noSecs⟩ = some 0x80000000 ∧
      ∃ t, exec .etrackc (stT 0x80007000) = .next t ∧ t.lp.outcome = some (.completed .prevTrkIncmpl) :=
  ⟨⟨_, rfl, rfl⟩, resolves_reg, rfl, completes_17⟩

theorem witness_NothingIsWrittenBeforeARaise :
    (∃ t x, exec .etrackc (stV 0x80007000) = .next t ∧ t.lp.outcome = some (.vmExit x)) ∧
      ∃ t, exec .etrackc (stT 0x80002008) = .next t ∧ t.lp.outcome = some (.exception (.gp 0)) :=
  ⟨⟨_, _, rfl, rfl⟩, _, rfl, rfl⟩

theorem witness_InstructionPointerAdvances :
    (∃ t c, exec .etrackc (stT 0x80002000) = .next t ∧ t.lp.outcome = some (.completed c)) ∧
      ∃ t, exec .etrackc (stT 0x80002008) = .next t ∧ ∀ c, t.lp.outcome ≠ some (.completed c) :=
  ⟨⟨_, _, rfl, rfl⟩, _, rfl, fun _ h => by cases h⟩

theorem witness_OnlySuccessChangesTheTrackingState : ∃ t, exec .etrackc (stT 0x80007000) = .next t ∧
    t.lp.outcome ≠ some (.completed .noError) := ⟨_, rfl, fun h => by cases h⟩

theorem witness_NoVmExitOutsideTheVmxCondition : ∃ t x, exec .etrackc (stV 0x80007000) = .next t ∧
    t.lp.outcome = some (.vmExit x) := ⟨_, _, rfl, rfl⟩

/-- The VM exit on an incomplete cycle is still taken under NoConcurrentSGX. -/
theorem witness_NoConcurrentSgxNoConflict :
    ∃ t x, exec .etrackc { stV 0x80007000 with cfg := { customaryConfig with noConcurrentSGX := true } } = .next t ∧
      t.lp.outcome = some (.vmExit x) ∧ customaryConfig.codesDiffer = true := ⟨_, _, rfl, rfl, rfl⟩

theorem witness_FlagsOnEntryAreNotRead :
    (∃ t c, exec .etrackc (stT 0x80004000) = .next t ∧ t.lp.outcome = some (.completed c)) ∧
      ∃ t, exec .etrackc (stT 0x80002008) = .next t ∧ ∀ c, t.lp.outcome ≠ some (.completed c) :=
  ⟨⟨_, _, rfl, rfl⟩, _, rfl, fun _ h => by cases h⟩

/-- V14. -/
theorem witness_HighHalfOfRaxIsIgnored : ∃ t c, exec .etrackc (stT 0x80002000) = .next t ∧
    t.lp.outcome = some (.completed c) := ⟨_, _, rfl, rfl⟩

/-- V81. -/
theorem witness_HighHalfOfRcxIsIgnoredInProtectedMode :
    (stP 0x80002000).lp.mode = .prot32 ∧ ∃ t, exec .etrackc (stP 0x80002000) = .next t := ⟨rfl, _, rfl⟩

/-- Q2. -/
theorem witness_SelectorSurvivesOnlyCodeSeventeen : ∃ t, exec .etrackc (stT 0x80007000) = .next t ∧
    t.lp.outcome = some (.completed .prevTrkIncmpl) := completes_17

/-- Q4, and an invalid page. -/
theorem witness_PermanentCodesRepeat :
    (∃ t, exec .etrackc (stT 0x80004000) = .next t ∧ t.lp.outcome = some (.completed .trackNotRequired) ∧
      t.lp.pc.toNat + (stT 0x80004000).cfg.enclsLen ≤ topAddress (stT 0x80004000).lp.mode) ∧
      ∃ t, exec .etrackc (stT 0x80005000) = .next t ∧ t.lp.outcome = some (.completed .pgInvld) :=
  ⟨⟨_, rfl, rfl, by decide⟩, _, rfl, rfl⟩

end Sys2Proof.Tests
end

