-- ==== Sys2Proof/Proofs/Etrackc.lean ====
section
/-! PROOF. A misaligned operand, an invalid page, and the flags of a completion (40_etrackc.md R73, R77, R82). -/

namespace Sys2Proof.Machine

/-! ### The operand's address in each mode -/

theorem linearAddress_mode64 {p : LP} (h : p.mode = .mode64) : linearAddress p = p.rcx := by
  simp [linearAddress, effectiveAddress, h]

theorem effectiveAddress_prot32 {p : LP} (h : p.mode = .prot32) :
    effectiveAddress p = (p.rcx.setWidth 32).setWidth 64 := by
  simp [effectiveAddress, h]

theorem linearAddress_prot32 {p : LP} (h : p.mode = .prot32) :
    linearAddress p = ((p.ds.base + effectiveAddress p).setWidth 32).setWidth 64 := by
  simp [linearAddress, h]

/-! ### Alignment reads the low 12 bits only -/

theorem pageAligned_setWidth32 (a : Word) : pageAligned ((a.setWidth 32).setWidth 64) = pageAligned a := by
  rw [Bool.eq_iff_iff, pageAligned_iff_mod, pageAligned_iff_mod]
  simp only [BitVec.toNat_setWidth]
  omega

theorem pageAligned_add {a : Word} (ha : pageAligned a = true) (b : Word) :
    pageAligned (a + b) = pageAligned b := by
  rw [pageAligned_iff_mod] at ha
  rw [Bool.eq_iff_iff, pageAligned_iff_mod, pageAligned_iff_mod, BitVec.toNat_add]
  omega

/-- From a page-aligned DS base the linear address is aligned exactly when the effective address is. -/
theorem pageAligned_linearAddress_prot32 {p : LP} (h : p.mode = .prot32) (hb : pageAligned p.ds.base = true) :
    pageAligned (linearAddress p) = pageAligned (effectiveAddress p) := by
  rw [linearAddress_prot32 h, pageAligned_setWidth32, pageAligned_add hb]

theorem pageAligned_eq_false_iff_setWidth (a : Word) : pageAligned a = false ↔ a.setWidth 12 ≠ 0#12 := by
  rw [← Bool.not_eq_true, pageAligned_iff_setWidth]

/-! ### S1, S5 and the completing paths -/

/-- S1 comes before every other check of the operand (40_etrackc.md R73). -/
theorem exec_misaligned {s : State} (hs : Admitted s) (h : pageAligned (linearAddress s.lp) = false) :
    exec .etrackc s = .next (takeException (.gp 0) s) :=
  execEtrackc_of_ends hs.toUnrefused (.exception hs (resolveOperand_misaligned h))

/-- S5 asks nothing of the page but that it is not valid (40_etrackc.md R77). -/
theorem exec_invalidPage {s : State} {pa : Word} {p : EpcPage} (h : OperandResolves s pa p)
    (hm : pageBeingModified s = false) (hv : p.valid = false) :
    exec .etrackc s = .next (complete .pgInvld (completionFlags .pgInvld) s) :=
  execEtrackc_of_ends h.admitted.toUnrefused (.pageInvalid h hm hv)

/-- A completion by its own code's flags shows the flags of the code it records. -/
theorem complete_flags_of_outcome {s : State} {c d : ReturnCode}
    (h : (complete d (completionFlags d) s).lp.outcome = some (.completed c)) :
    (complete d (completionFlags d) s).lp.flags = completionFlags c := by
  cases h
  rfl

/-- Where the page is not being modified, a completion with code `c` leaves the six flags that R82 and R83 give `c`. -/
theorem EtrackcEnds.flags_of_completed {s t : State} {c : ReturnCode} (he : EtrackcEnds s t)
    (hm : pageBeingModified s = false) (hc : t.lp.outcome = some (.completed c)) :
    t.lp.flags = completionFlags c := by
  cases he with
  | leafUnavailable | notCPL0 | exception | vmExit => cases hc
  | pageConflict _ hb => simp [hm] at hb
  | pageInvalid | notTracked | facilityConflict | cycleIncomplete | success => exact complete_flags_of_outcome hc

/-! ### The obligations -/

/-- Settles O19: S1 is the first check, and alignment reads the low 12 bits of the address only. -/
theorem misalignedOperandRaisesGP : Obligations.MisalignedOperandRaisesGP := by
  refine ⟨fun s hs h => exec_misaligned hs ((pageAligned_eq_false_iff_setWidth _).2 h), fun p hm => ?_,
    fun p hm hb => ?_⟩
  · rw [linearAddress_mode64 hm]
    constructor
    · rintro (h | h) <;> rw [h] <;> decide
    · rintro (h | h) <;> rw [h] <;> decide
  · rw [pageAligned_linearAddress_prot32 hm hb, effectiveAddress_prot32 hm]
    exact ⟨fun h => by rw [h]; decide, fun h => by rw [h]; decide⟩

/-- Settles O28: both executions end at S5, whose completion reads no field of the page. -/
theorem invalidPageReturnsPgInvld : Obligations.InvalidPageReturnsPgInvld := by
  intro s pa p hp hm hv
  refine ⟨_, exec_invalidPage hp hm hv, rfl, rfl, rfl, fun pt es s' hp' hs => ?_⟩
  obtain ⟨e, rfl⟩ : ∃ e, s = { s' with epc := e } := ⟨_, hs.symm⟩
  exact exec_invalidPage hp' hm hv

/-- Settles O37: the flags of a completion are those of its return code, whose last four are clear. -/
theorem completionClearsFourFlags : Obligations.CompletionClearsFourFlags := by
  intro s t c ht hc hm
  have hf : t.lp.flags = completionFlags c := (execEtrackc_next ht).2.flags_of_completed hm hc
  rw [hf]
  exact ⟨rfl, rfl, rfl, rfl⟩

end Sys2Proof.Machine
end

section
/-! PROOF. The decoder, the run around the instruction, and the launch state (30_encoding.md, 60_exceptions.md section 7,
70_reset_and_hazards.md sections 1 and 5). -/

namespace Sys2Proof.Machine

/-! ### The decoder -/

/-- What decodes is an encoding: its bytes, and its selector. -/
theorem encoding_of_decode_ok {bytes rest : List Byte} {eax : Selector} {i : Instr}
    (h : decode bytes eax = .ok (i, rest)) : bytes = encodeBytes i ++ rest ∧ eax = encodeSelector i := by
  unfold decode at h
  split at h
  · next b0 b1 b2 tail =>
    split at h
    · next hb =>
      obtain ⟨rfl, rfl, rfl⟩ := hb
      split at h
      · next he =>
        cases h
        exact ⟨rfl, he⟩
      · cases h
    · split at h
      · cases h
      · split at h <;> cases h
  · cases h

theorem three_le_length_of_beginsEncls {bytes : List Byte} (h : beginsEncls bytes = true) : 3 ≤ bytes.length := by
  unfold beginsEncls at h
  split at h
  · simp
  · cases h

/-- What does not begin with the first byte of ENCLS, and behind its prefixes begins an ENCLS, is a prefixed form. -/
theorem decode_prefixed {bytes : List Byte} (eax : Selector) (hb : bytes.head? ≠ some 0x0F)
    (h : beginsEncls (bytes.dropWhile isPrefix) = true) : decode bytes eax = .error .prefixed := by
  have hlen : 3 ≤ bytes.length :=
    (three_le_length_of_beginsEncls h).trans (List.dropWhile_sublist isPrefix).length_le
  match bytes with
  | b0 :: b1 :: b2 :: rest =>
    have hb' : ¬(b0 = 0x0F ∧ b1 = 0x01 ∧ b2 = 0xCF) := fun hc => hb (congrArg some hc.1)
    simp only [decode, hb', h, if_false, if_true]
  | [] | [_] | [_, _] => simp at hlen

/-- The first byte of ENCLS is none of the prefixes, so a prefixed form does not begin with it. -/
theorem head?_append_ne_of_isPrefix {pre : List Byte} (rest : List Byte) (hne : pre ≠ [])
    (hp : ∀ x ∈ pre, isPrefix x = true) : (pre ++ rest).head? ≠ some 0x0F := by
  cases pre with
  | nil => exact absurd rfl hne
  | cons b pre =>
    intro h
    cases h
    exact absurd (hp _ (List.mem_cons_self ..)) (by decide)

/-- A prefixed form is one whatever EAX holds. -/
theorem decode_prefixed_any_eax {bytes : List Byte} {eax eax' : Selector}
    (h : decode bytes eax = .error .prefixed) : decode bytes eax' = .error .prefixed := by
  unfold decode at h ⊢
  split at h
  · split at h
    · split at h <;> cases h
    · next hb => simpa only [hb, if_false] using h
  · cases h

/-- Prefixes before a form that begins with none of them and is an ENCLS make a prefixed form. -/
theorem decode_prefixes_append {pre : List Byte} {b : Byte} {form : List Byte} (eax : Selector)
    (hp : ∀ x ∈ pre, isPrefix x = true) (hb : isPrefix b = false) (hf : beginsEncls (b :: form) = true)
    (hne : pre ≠ [] ∨ b ≠ 0x0F) : decode (pre ++ b :: form) eax = .error .prefixed := by
  apply decode_prefixed
  · by_cases he : pre = []
    · subst he
      simpa using hne
    · exact head?_append_ne_of_isPrefix _ he hp
  · rw [List.dropWhile_append_of_pos hp, List.dropWhile_cons_of_neg (by simp [hb])]
    exact hf

/-! ### The step where an event names a processor -/

/-- The recording of a refusal changes no other answer. -/
theorem recordRefusal_eq (s : State) (r : Result) :
    ((∀ q, r ≠ .refused q) → recordRefusal s r = r) ∧
      ∀ q, r = .refused q → recordRefusal s r = .next (takeRefusal q s) := by
  cases r with
  | next | fault => exact ⟨fun _ => rfl, nofun⟩
  | refused q =>
    refine ⟨fun h => absurd rfl (h q), fun q' h => ?_⟩
    cases h
    rfl

section Named

variable {s s' : State} {k : Nat} {l : RegLoad} {rest : List Event}
  (hs : s.schedule = .encls k l :: rest) (hf : focus k { s with schedule := rest } = some s')

include hs hf

theorem step_of_terminal (ht : s'.lp.terminal = true) : step s = .fault .lpHasNoFurtherStep := by
  simp [step, turn, hs, hf, enclsTurn, ht]

/-- A processor that may go on fetches and decodes. -/
theorem turn_of_not_terminal (ht : s'.lp.terminal = false) : turn s = fetchInstr (beginExecution l s') := by
  simp [turn, hs, hf, enclsTurn, ht]

theorem step_of_unsupportedMode (ht : s'.lp.terminal = false) (hm : modeSupported s'.lp.mode = false) :
    step s = .next (takeRefusal .unsupportedMode (beginExecution l s')) := by
  simp [step, turn_of_not_terminal hs hf ht, fetchInstr, hm, recordRefusal]

theorem step_of_decode_ok (ht : s'.lp.terminal = false) (hm : modeSupported s'.lp.mode = true) {i : Instr}
    {tail : List Byte} (hd : decode (fetchBytes (beginExecution l s')) (beginExecution l s').lp.eax = .ok (i, tail)) :
    step s = recordRefusal (beginExecution l s') (exec i (beginExecution l s')) := by
  simp [step, turn_of_not_terminal hs hf ht, fetchInstr, hm, hd]

theorem step_of_decode_error (ht : s'.lp.terminal = false) (hm : modeSupported s'.lp.mode = true) {e : DecodeError}
    (hd : decode (fetchBytes (beginExecution l s')) (beginExecution l s').lp.eax = .error e) :
    step s = recordRefusal (beginExecution l s') (fetchStop (beginExecution l s') e) := by
  simp [step, turn_of_not_terminal hs hf ht, fetchInstr, hm, hd]

end Named

/-- A processor that has an outcome other than a completion has no further step. -/
theorem terminal_of_outcome {p : LP} {o : LpOutcome} (h : p.outcome = some o) (hc : ∀ c, o ≠ .completed c) :
    p.terminal = true := by
  cases o with
  | completed c => exact absurd rfl (hc c)
  | exception | vmExit | modelFault | refused => simp [LP.terminal, h]

theorem topAddress_lt (m : Mode) : topAddress m < 2 ^ 64 := by
  cases m <;> decide

/-! ### A table word placed at pc -/

/-- The bytes fetched where a table word was placed begin with those of ENCLS. -/
theorem fetchBytes_withFetchWord (s : State) (w : Nat) (h : s.lp.pc.toNat + 2 ≤ topAddress s.lp.mode) :
    ∃ tail, fetchBytes (s.withFetchWord 32 w) = enclsBytes ++ tail := by
  have htop := topAddress_lt s.lp.mode
  refine Memory.fetch_writeBytes ?_ (fun _ => ?_) htop
  · exact Memory.length_le_writeBytes (by simp only [enclsBytes, List.length_cons, List.length_nil]; omega)
  · simp only [enclsBytes, List.length_cons, List.length_nil]
    exact Nat.succ_le_succ h

/-- EAX holds the low 32 bits of the table word placed. -/
theorem eax_withFetchWord (s : State) (w : Nat) : (s.withFetchWord 32 w).lp.eax = BitVec.ofNat 32 w :=
  BitVec.setWidth_append_eq_right.trans (BitVec.eq_of_toNat_eq (by simp))

/-! ### The obligations -/

/-- Settles O13: the decoder's own branches one way, the round trip the other. -/
theorem decodeAcceptsExactlyTheEncodings : Obligations.DecodeAcceptsExactlyTheEncodings := by
  intro bytes eax i rest
  constructor
  · intro h
    obtain ⟨hb, he⟩ := encoding_of_decode_ok h
    exact ⟨by cases i; rfl, hb, he⟩
  · rintro ⟨hw, rfl, rfl⟩
    cases i
    exact Laws.RoundTrip.etrackc hw rest

/-- Settles O14: the bytes placed are fetched, so EAX alone decides what the step runs. -/
theorem placedWordIsFetched : Obligations.PlacedWordIsFetched := by
  intro s w hm hroom
  obtain ⟨tail, htail⟩ := fetchBytes_withFetchWord s w hroom
  refine ⟨⟨tail, htail⟩, ?_⟩
  intro b
  have hf : focus s.lp.id { s.withFetchWord 32 w with schedule := s.schedule } =
      some { s.withFetchWord 32 w with schedule := s.schedule } := if_pos rfl
  have heax : b.lp.eax = BitVec.ofNat 32 w := eax_withFetchWord s w
  have hd : decode (fetchBytes b) b.lp.eax =
      if BitVec.ofNat 32 w = leafEtrackc then .ok (.etrackc, tail) else .error (.otherLeaf (BitVec.ofNat 32 w)) := by
    rw [heax, show fetchBytes b = enclsBytes ++ tail from htail, decode_encls]
  have hleaf : BitVec.ofNat 32 w = leafEtrackc ↔ w % 2 ^ 32 = 0x11 := by
    rw [← BitVec.toNat_inj, BitVec.toNat_ofNat]
    rfl
  constructor
  · intro hw
    rw [if_pos (hleaf.2 hw)] at hd
    refine ⟨heax.trans (hleaf.2 hw), ?_⟩
    rw [step_of_decode_ok rfl hf rfl hm hd]
    exact recordRefusal_eq b (exec .etrackc b)
  · intro hw
    rw [if_neg (mt hleaf.1 hw)] at hd
    exact step_of_decode_error rfl hf rfl hm hd

/-- Settles O4. -/
theorem focusSelectsTheNamedProcessor : Obligations.FocusSelectsTheNamedProcessor := by
  intro s k
  refine ⟨⟨fun ⟨p, hp, hk⟩ => ?_, fun ⟨t, ht⟩ => ?_⟩, fun t ht => ?_⟩
  · cases hf : focus k s with
    | none => exact absurd hk (focus_eq_none hf p hp)
    | some t => exact ⟨t, rfl⟩
  · obtain ⟨p, ps, _, hk, hp⟩ := focus_eq_some ht
    exact ⟨p, hp.subset (List.mem_cons_self ..), hk⟩
  · obtain ⟨p, ps, rfl, hk, hp⟩ := focus_eq_some ht
    exact ⟨hk, hp, rfl⟩

/-- Settles O6, by the laws of an update of one SECS. -/
theorem trackingProgressSetsTrackingOnly : Obligations.TrackingProgressSetsTrackingOnly := by
  intro s a v rest hs
  refine ⟨trackingProgress a v { s with schedule := rest }, by simp [step, turn, hs], fun p hp => ?_, fun b hb => ?_,
    ?_, rfl⟩
  · rw [trackingProgress_epc, Epc.page?_updateSecs_self, hp]
    rfl
  · exact Epc.page?_updateSecs_other _ _ hb
  · exact Epc.keys_updateSecs _ _ _

/-- Settles O51: no run of listed bytes is longer than the program text, so the fuel of the fetch suffices. -/
theorem fetchReadsEveryListedByte : Obligations.FetchReadsEveryListedByte := by
  intro s n htop hlisted
  have hn : n + 1 ≤ s.text.length := Memory.run_le_length fun i hi => hlisted i (by omega)
  exact Memory.getElem?_fetch (by omega) htop hlisted

/-- Settles O52: dropping the prefixes leaves the form, whose first byte is none of them. -/
theorem prefixesOfAnyLengthAreSeen : Obligations.PrefixesOfAnyLengthAreSeen := by
  intro pre rest eax hp
  refine ⟨fun hne => ?_, fun m => ?_, fun m n => ?_⟩
  · simpa [encodeBytes, enclsBytes] using
      decode_prefixes_append (form := 0x01 :: 0xCF :: rest) eax hp (b := 0x0F) (by decide) rfl (.inl hne)
  · simpa using decode_prefixes_append (form := m :: 0x01 :: 0xCF :: rest) eax hp (b := 0xC5) (by decide)
      (by simp [beginsEncls]) (.inr (by decide))
  · simpa using decode_prefixes_append (form := m :: n :: 0x01 :: 0xCF :: rest) eax hp (b := 0xC4) (by decide)
      (by simp [beginsEncls]) (.inr (by decide))

/-- Settles O12: each word is evaluated. -/
theorem specWordsDecode : Obligations.SpecWordsDecode := by
  refine ⟨?_, ?_, ?_, ?_, ?_, ?_, ?_⟩ <;> decide

/-- Settles O3. -/
theorem stepRunsDecodedInstruction : Obligations.StepRunsDecodedInstruction := by
  intro s s' k l rest i tail hs hf ht hm hd b
  rw [step_of_decode_ok hs hf ht hm hd]
  exact recordRefusal_eq b (exec i b)

/-- Settles O53: the mode is tested before the bytes, and prefixes before EAX. -/
theorem prefixedFormIsRefused : Obligations.PrefixedFormIsRefused := by
  intro s s' k l rest hs hf ht b
  refine ⟨fun hm => step_of_unsupportedMode hs hf ht hm, fun hm eax hd => ?_⟩
  have hd' : decode (fetchBytes b) b.lp.eax = .error .prefixed := decode_prefixed_any_eax hd
  exact step_of_decode_error hs hf ht hm hd'

/-- Settles O5. -/
theorem harnessPlacesRegistersOnly : Obligations.HarnessPlacesRegistersOnly := fun _ _ => rfl

/-- Settles O7. -/
theorem exhaustedScheduleEndsTheRun : Obligations.ExhaustedScheduleEndsTheRun := by
  intro s hs
  simp [step, turn, hs]

/-- Settles O8. -/
theorem terminalProcessorHasNoFurtherStep : Obligations.TerminalProcessorHasNoFurtherStep :=
  fun _ _ _ _ _ _ hs hf ho hc => step_of_terminal hs hf (terminal_of_outcome ho hc)

/-- Settles O1: each part of the invariant is evaluated on the launch state. -/
theorem resetMeetsMachineInvariant : Obligations.ResetMeetsMachineInvariant := by
  refine ⟨by decide, by decide, ⟨by decide, by decide, by decide, by decide, by decide, by decide⟩, fun p hp => ?_,
    by decide⟩
  rw [List.mem_singleton.1 hp]
  exact ⟨by decide, by decide, by decide⟩

/-- Settles O54: each launch premise is evaluated on the launch state. -/
theorem resetIsALaunchState : Obligations.ResetIsALaunchState :=
  ⟨by decide, rfl, by decide, by decide, by decide, by decide, by decide⟩

end Sys2Proof.Machine
end

section
/-! PROOF. What the endings of an execution write and leave, whatever the operand was (40_etrackc.md R83 to R85,
60_exceptions.md R105). -/

namespace Sys2Proof.Machine

/-! ### What every ending leaves -/

section Endings

variable {s t : State} (he : EtrackcEnds s t)

include he

/-- An ending writes RAX, the six flags, pc, the outcome, the five VM-exit fields and the SECS fields, and nothing else. -/
theorem EtrackcEnds.frame :
    t = { s with epc := t.epc, lp := { s.lp with
      rax := t.lp.rax, flags := t.lp.flags, pc := t.lp.pc, outcome := t.lp.outcome
      vmcs := { t.lp.vmcs with
        enableEpcVirtualizationExtensions := s.lp.vmcs.enableEpcVirtualizationExtensions } } } := by
  cases he <;> rfl

theorem EtrackcEnds.cfg : t.cfg = s.cfg := by rw [he.frame]
theorem EtrackcEnds.others : t.others = s.others := by rw [he.frame]
theorem EtrackcEnds.text : t.text = s.text := by rw [he.frame]

/-- Only a VM exit writes the VMCS. -/
theorem EtrackcEnds.vmcs (hx : ∀ x, t.lp.outcome ≠ some (.vmExit x)) : t.lp.vmcs = s.lp.vmcs := by
  cases he with
  | vmExit => exact absurd rfl (hx _)
  | _ => rfl

/-- Only a completion writes more than the outcome and the VMCS. -/
theorem EtrackcEnds.of_not_completed (hc : ∀ c, t.lp.outcome ≠ some (.completed c)) :
    t = { s with lp := { s.lp with outcome := t.lp.outcome, vmcs := t.lp.vmcs } } := by
  cases he with
  | leafUnavailable | notCPL0 | exception | vmExit => rfl
  | pageConflict | pageInvalid | notTracked | facilityConflict | cycleIncomplete | success => exact absurd rfl (hc _)

/-- A success is the start of a tracking cycle on a SECS whose facility is free and whose previous cycle is complete. -/
theorem EtrackcEnds.of_noError (ho : t.lp.outcome = some (.completed .noError)) :
    ∃ a sp, OnSecs s a sp ∧ trackingFacilityBusy s = false ∧ sp.secs.tracking = 0 ∧
      t = complete .noError (completionFlags .noError) (startTracking a s) := by
  cases he with
  | success h hb ht => exact ⟨_, _, h, hb, ht, rfl⟩
  | _ => cases ho

/-- Only a success writes the EPC. -/
theorem EtrackcEnds.epc (ho : t.lp.outcome ≠ some (.completed .noError)) : t.epc = s.epc := by
  cases he with
  | success => exact absurd rfl ho
  | _ => rfl

/-- No ending changes what is read of the EPC beside TRACKING and TrackState. -/
theorem EtrackcEnds.epcm :
    t.epc.map (fun x => (x.1, x.2.valid, x.2.pt, x.2.enclaveSecs, x.2.secs.enclaveContext)) =
      s.epc.map (fun x => (x.1, x.2.valid, x.2.pt, x.2.enclaveSecs, x.2.secs.enclaveContext)) := by
  cases he with
  | success => exact Epc.map_updateSecs _ _ (fun _ _ => rfl) _ _
  | _ => rfl

theorem EtrackcEnds.exists_outcome : ∃ o, t.lp.outcome = some o := by
  cases he <;> exact ⟨_, rfl⟩

/-- What a completion writes: RAX by its code, and pc advanced. -/
theorem EtrackcEnds.of_completed {c : ReturnCode} (hc : t.lp.outcome = some (.completed c)) :
    t.lp.rax = returnValue c ∧ t.lp.pc = s.lp.pc + BitVec.ofNat 64 s.cfg.enclsLen := by
  cases he with
  | leafUnavailable | notCPL0 | exception | vmExit => cases hc
  | pageConflict | pageInvalid | notTracked | facilityConflict | cycleIncomplete | success =>
    cases hc
    exact ⟨rfl, rfl⟩

/-- A VM exit comes of a tracking conflict under the VMX condition, with the code of its cause. -/
theorem EtrackcEnds.of_vmExit {x : VmExit} (hx : t.lp.outcome = some (.vmExit x)) :
    vmExitEnabled s.lp = true ∧
      (trackingFacilityBusy s = true ∨ x.code = s.cfg.qualTrackingReferenceConflict) := by
  cases he with
  | vmExit _ hv hcode =>
    cases hx
    exact ⟨hv, hcode.imp And.left fun h => h.2.2⟩
  | _ => cases hx

/-- Code 7 is a draw of the environment. -/
theorem EtrackcEnds.of_epcPageConflict (hc : t.lp.outcome = some (.completed .epcPageConflict)) :
    pageBeingModified s = true ∨ trackingFacilityBusy s = true := by
  cases he with
  | pageConflict _ hm => exact .inl hm
  | facilityConflict _ _ hb => exact .inr hb
  | _ => cases hc

/-- At a privilege level other than 0 only the two model faults are reached. -/
theorem EtrackcEnds.of_cpl_ne_zero (hc : s.lp.cpl ≠ 0) :
    ∃ f, t = takeModelFault f s ∧ ∀ u : State, u.cfg = s.cfg → u.lp = s.lp → EtrackcEnds u (takeModelFault f u) := by
  cases he with
  | leafUnavailable hf => exact ⟨_, rfl, fun u hu _ => .leafUnavailable (by rw [hu, hf])⟩
  | notCPL0 hf _ => exact ⟨_, rfl, fun u hu hl => .notCPL0 (by rw [hu, hf]) (by rwa [hl])⟩
  | exception h => exact absurd h.cpl hc
  | pageConflict h | pageInvalid h | notTracked h => exact absurd h.admitted.cpl hc
  | vmExit h | facilityConflict h | cycleIncomplete h | success h =>
    obtain ⟨⟨_, _, hp, _⟩, _⟩ := h
    exact absurd hp.admitted.cpl hc

/-- LeafUnavailable is reached without the feature flag only. -/
theorem EtrackcEnds.of_leafUnavailable {m : CplFault} (ho : t.lp.outcome = some (.modelFault .leafUnavailable m)) :
    s.cfg.featureEtrackc = false := by
  cases he with
  | leafUnavailable hf => exact hf
  | _ => cases ho

end Endings

/-! ### The flags of a completion -/

theorem s4Flags_cleared {s : State} (h : s.cfg.conflictPathFlags = .cleared) :
    s4Flags s = completionFlags .epcPageConflict := by
  simp [s4Flags, h]

/-- The S4 path gives ZF and CF as every other completion with its code does. -/
theorem s4Flags_zf_cf (s : State) :
    (s4Flags s).zf = zfOf .epcPageConflict ∧ (s4Flags s).cf = cfOf .epcPageConflict := by
  unfold s4Flags
  cases s.cfg.conflictPathFlags <;> exact ⟨rfl, rfl⟩

/-- On every completion ZF and CF are those of the code. -/
theorem EtrackcEnds.zf_cf_of_completed {s t : State} {c : ReturnCode} (he : EtrackcEnds s t)
    (hc : t.lp.outcome = some (.completed c)) : t.lp.flags.zf = zfOf c ∧ t.lp.flags.cf = cfOf c := by
  cases he with
  | leafUnavailable | notCPL0 | exception | vmExit => cases hc
  | pageConflict =>
    cases hc
    exact s4Flags_zf_cf s
  | pageInvalid | notTracked | facilityConflict | cycleIncomplete | success =>
    cases hc
    exact ⟨rfl, rfl⟩

/-- Where the S4 path clears the four flags too, every completion leaves the flags of its code. -/
theorem EtrackcEnds.flags_of_cleared {s t : State} {c : ReturnCode} (he : EtrackcEnds s t)
    (hp : s.cfg.conflictPathFlags = .cleared) (hc : t.lp.outcome = some (.completed c)) :
    t.lp.flags = completionFlags c := by
  cases he with
  | leafUnavailable | notCPL0 | exception | vmExit => cases hc
  | pageConflict =>
    cases hc
    exact s4Flags_cleared hp
  | pageInvalid | notTracked | facilityConflict | cycleIncomplete | success => exact complete_flags_of_outcome hc

/-- Table 40-48: the codes, and ZF and CF by the code (40_etrackc.md R83). -/
theorem returnValue_laws (c : ReturnCode) :
    returnValue c ∈ ([0, 6, 7, 17, 27] : List Word) ∧
      (zfOf c = true ↔ returnValue c = 6 ∨ returnValue c = 7 ∨ returnValue c = 17) ∧
      (cfOf c = true ↔ returnValue c = 27) ∧ ((zfOf c = false ∧ cfOf c = false) ↔ returnValue c = 0) := by
  cases c <;> decide

theorem returnValue_lt (c : ReturnCode) : (returnValue c).toNat < 2 ^ 32 := by
  cases c <;> decide

/-- The one return code that is the leaf number of ETRACKC, 17 (70_reset_and_hazards.md R133). -/
theorem returnValue_selects_iff (c : ReturnCode) :
    (returnValue c).setWidth 32 = leafEtrackc ↔ c = .prevTrkIncmpl := by
  cases c <;> decide

/-- Room for the instruction means that advancing pc does not wrap (10_state.md R14). -/
theorem toNat_pc_add_enclsLen {s : State} (h : Unrefused s) :
    (s.lp.pc + BitVec.ofNat 64 s.cfg.enclsLen).toNat = s.lp.pc.toNat + s.cfg.enclsLen := by
  have hroom := h.room
  have htop := topAddress_lt s.lp.mode
  rw [BitVec.toNat_add, BitVec.toNat_ofNat]
  omega

/-- The SECS of an operand that resolves is at one address only. -/
theorem OnSecs.address_eq {s : State} {a b : Nat} {sp p : EpcPage} {pa : Word} (h : OnSecs s a sp)
    (hp : OperandResolves s pa p) (hb : targetSecs pa p = some b) : b = a := by
  obtain ⟨⟨pa', p', hp', _, ha⟩, _⟩ := h
  have heq := (resolveOperand_page_iff hp.admitted pa p).2 hp
  rw [(resolveOperand_page_iff hp.admitted pa' p').2 hp'] at heq
  cases heq
  exact Option.some.inj (hb.symm.trans ha)

/-! ### The obligations -/

/-- Settles O39: the frame of the endings; a success writes the SECS that the operand leads to. -/
theorem etrackcFrame : Obligations.EtrackcFrame := by
  intro s t ht
  obtain ⟨_, he⟩ := execEtrackc_next ht
  refine ⟨he.frame, he.vmcs, fun a => by rw [he.text], he.epcm, he.epc, fun ho => ?_⟩
  obtain ⟨a, sp, hsecs, _, _, rfl⟩ := he.of_noError ho
  obtain ⟨pa, p, hp, _, ha⟩ := hsecs.page
  refine ⟨⟨pa, p, a, hp, ha⟩, fun pa' p' a' hp' ha' b hb => ?_⟩
  exact Epc.page?_updateSecs_other _ _ (hsecs.address_eq hp' ha' ▸ hb)

/-- Settles O42. -/
theorem onlySuccessChangesTheTrackingState : Obligations.OnlySuccessChangesTheTrackingState :=
  fun _ _ ht ho => (execEtrackc_next ht).2.epc ho

/-- Settles O40. -/
theorem nothingIsWrittenBeforeARaise : Obligations.NothingIsWrittenBeforeARaise := by
  intro s t o ht ho hc
  obtain ⟨_, he⟩ := execEtrackc_next ht
  refine ⟨?_, fun hx => he.vmcs fun x h => hx x (Option.some.inj (ho.symm.trans h))⟩
  have h := he.of_not_completed fun c h => hc c (Option.some.inj (ho.symm.trans h))
  rwa [ho] at h

/-- Settles O38: an ending has an outcome, and a completion RAX, ZF and CF by its code. -/
theorem returnCodesAndFlagsAgree : Obligations.ReturnCodesAndFlagsAgree := by
  intro s t ht
  obtain ⟨_, he⟩ := execEtrackc_next ht
  obtain ⟨o, ho⟩ := he.exists_outcome
  refine ⟨o, ho, fun c hc => ?_⟩
  subst hc
  obtain ⟨hzf, hcf⟩ := he.zf_cf_of_completed ho
  rw [hzf, hcf, (he.of_completed ho).1]
  exact returnValue_laws c

/-- Settles O41. -/
theorem instructionPointerAdvances : Obligations.InstructionPointerAdvances := by
  intro s t ht
  obtain ⟨hu, he⟩ := execEtrackc_next ht
  refine ⟨fun c hc => ?_, fun hc => ?_⟩
  · rw [(he.of_completed hc).2, toNat_pc_add_enclsLen hu]
  · rw [he.of_not_completed hc]

/-- Settles O43. -/
theorem noVmExitOutsideTheVmxCondition : Obligations.NoVmExitOutsideTheVmxCondition := by
  intro s t x ht hx
  have hv := ((execEtrackc_next ht).2.of_vmExit hx).1
  simpa [vmExitEnabled] using hv

/-- Settles O44: the two draws that lead to code 7 and to the RESOURCE code are false. -/
theorem noConcurrentSgxNoConflict : Obligations.NoConcurrentSgxNoConflict := by
  intro s t hn hcodes ht
  obtain ⟨_, he⟩ := execEtrackc_next ht
  have hm : pageBeingModified s = false := by simp [pageBeingModified, hn]
  have hb : trackingFacilityBusy s = false := by simp [trackingFacilityBusy, hn]
  refine ⟨fun hc => ?_, fun x hx hcode => ?_⟩
  · simpa [hm, hb] using he.of_epcPageConflict hc
  · rcases (he.of_vmExit hx).2 with h | h
    · simp [hb] at h
    · simp [Config.codesDiffer, ← hcode, h] at hcodes

/-- Settles O48. -/
theorem selectorSurvivesOnlyCodeSeventeen : Obligations.SelectorSurvivesOnlyCodeSeventeen := by
  intro s t c rest ht hc
  have hrax := ((execEtrackc_next ht).2.of_completed hc).1
  rw [← returnValue_selects_iff, ← hrax]
  change decode (enclsBytes ++ rest) t.lp.eax = _ ↔ t.lp.eax = leafEtrackc
  rw [decode_encls]
  split_ifs with h <;> simp [h]

/-- Settles O56. -/
theorem clearedParameterClearsFourFlags : Obligations.ClearedParameterClearsFourFlags := by
  intro s t c hp ht hc
  rw [(execEtrackc_next ht).2.flags_of_cleared hp hc]
  exact ⟨rfl, rfl, rfl, rfl⟩

end Sys2Proof.Machine
end

section
/-! PROOF. What every step of the machine keeps, and the invariant (10_state.md sections 6 and 7, 60_exceptions.md
section 7). -/

namespace Sys2Proof.Machine

/-! ### What every step keeps -/

/-- What a step keeps of the processor that takes it: its name, mode, CPL, DS and VMX mode; its pc stays or is within the
address space (40_etrackc.md R84). -/
structure LpKept (p q : LP) : Prop where
  id : q.id = p.id
  mode : q.mode = p.mode
  cpl : q.cpl = p.cpl
  ds : q.ds = p.ds
  vmxNonRoot : q.vmxNonRoot = p.vmxNonRoot
  pc : q.pc = p.pc ∨ q.pc.toNat ≤ topAddress p.mode

/-- What a step does to the EPC: nothing, or it sets TRACKING and TrackState of one SECS. -/
inductive EpcKept (c : Config) (e : Epc) : Epc → Prop
  | same : EpcKept c e e
  | secs (f : Secs → Secs) (a : Nat) : (∀ q, (f q).tracking < 2 ^ c.trackingBits) →
      (∀ q, (f q).enclaveContext = q.enclaveContext) → EpcKept c e (Epc.updateSecs f e a)

/-- What a step keeps, `p` being the processor that takes it, or the one in focus where the environment does. -/
structure StepKept (s t : State) (p : LP) : Prop where
  lps : (p :: t.others).Perm (s.lp :: s.others)
  lp : LpKept p t.lp
  turn : t.lp = p ∨ p.terminal = false
  cfg : t.cfg = s.cfg
  text : t.text = s.text
  epc : EpcKept s.cfg s.epc t.epc

theorem EtrackcEnds.lpKept {s t : State} (hu : Unrefused s) (he : EtrackcEnds s t) : LpKept s.lp t.lp := by
  have hpc : t.lp.pc = s.lp.pc ∨ t.lp.pc.toNat ≤ topAddress s.lp.mode := by
    by_cases hc : ∃ c, t.lp.outcome = some (.completed c)
    · obtain ⟨c, hc⟩ := hc
      rw [(he.of_completed hc).2, toNat_pc_add_enclsLen hu]
      exact .inr hu.room
    · rw [he.of_not_completed (not_exists.1 hc)]
      exact .inl rfl
  refine ⟨?_, ?_, ?_, ?_, ?_, hpc⟩ <;> rw [he.frame]

theorem EtrackcEnds.epcKept {s t : State} (he : EtrackcEnds s t) : EpcKept s.cfg s.epc t.epc := by
  by_cases ho : t.lp.outcome = some (.completed .noError)
  · obtain ⟨a, _, _, _, _, rfl⟩ := he.of_noError ho
    exact .secs _ a (fun _ => trackingField_lt _ _) fun _ => rfl
  · rw [he.epc ho]
    exact .same

/-- The inversion of a step in terms of what it keeps. -/
theorem exists_stepKept {s t : State} (h : step s = .next t) : ∃ p, StepKept s t p := by
  rcases step_next h with ⟨a, v, rest, _, rfl⟩ | ⟨k, l, rest, s', _, hf, ht, hend⟩
  · exact ⟨s.lp, .refl _, ⟨rfl, rfl, rfl, rfl, rfl, .inl rfl⟩, .inl rfl, rfl, rfl,
      .secs _ a (fun _ => trackingField_lt _ _) fun _ => rfl⟩
  · obtain ⟨p, ps, rfl, _, hperm⟩ := focus_eq_some hf
    rcases hend with hexec | ⟨q, rfl⟩
    · obtain ⟨hu, he⟩ := execEtrackc_next hexec
      obtain ⟨hid, hmode, hcpl, hds, hvmx, hpc⟩ := he.lpKept hu
      exact ⟨p, he.others ▸ hperm, ⟨hid, hmode, hcpl, hds, hvmx, hpc⟩, .inr ht, he.cfg, he.text, he.epcKept⟩
    · exact ⟨p, hperm, ⟨rfl, rfl, rfl, rfl, rfl, .inl rfl⟩, .inr ht, rfl, rfl, .same⟩

/-! ### The parts of the invariant -/

theorem LpKept.lpInv {p q : LP} (h : LpKept p q) (hp : LpInv p) : LpInv q := by
  obtain ⟨hmode, hds, hpc⟩ := hp
  refine ⟨by rwa [h.mode], fun hm => ?_, ?_⟩
  · rw [h.ds]
    exact hds (h.mode ▸ hm)
  · rw [h.mode]
    rcases h.pc with hsame | hroom
    · rwa [hsame]
    · exact hroom

theorem EpcKept.epcInv {c : Config} {e e' : Epc} (h : EpcKept c e e') (he : EpcInv c e) : EpcInv c e' := by
  cases h with
  | same => exact he
  | secs f a ht hc => exact epcInv_updateSecs f he a ht hc

/-- An EPCM entry and ENCLAVECONTEXT, found by address, are as before. -/
theorem EpcKept.page?_map {c : Config} {e e' : Epc} (h : EpcKept c e e') (a : Nat) :
    (e'.page? a).map (fun p => (p.valid, p.pt, p.enclaveSecs, p.secs.enclaveContext)) =
      (e.page? a).map (fun p => (p.valid, p.pt, p.enclaveSecs, p.secs.enclaveContext)) := by
  cases h with
  | same => rfl
  | secs f b _ hc => exact Epc.epcm_updateSecs f _ (fun p => by simp only [hc]) e b a

theorem StepKept.ids {s t : State} {p : LP} (h : StepKept s t p) :
    ((t.lp :: t.others).map LP.id).Perm ((s.lp :: s.others).map LP.id) := by
  simpa only [List.map_cons, h.lp.id] using h.lps.map LP.id

/-- A name that only one processor has finds it. -/
theorem focus_of_mem {s : State} {p : LP} (hids : ((s.lp :: s.others).map LP.id).Nodup)
    (hp : p ∈ s.lp :: s.others) : ∃ ps, focus p.id s = some { s with lp := p, others := ps } := by
  cases hf : focus p.id s with
  | none => exact absurd rfl (focus_eq_none hf p hp)
  | some u =>
    obtain ⟨q, qs, rfl, hq, hperm⟩ := focus_eq_some hf
    obtain rfl : q = p := List.inj_on_of_nodup_map hids (hperm.subset (List.mem_cons_self ..)) hp hq
    exact ⟨qs, rfl⟩

/-- A turn that ends in a terminal outcome has changed the processor in turn only, and not its name. -/
theorem turn_to_terminal {b t : State} (h : execEtrackc b = .next t ∨ ∃ q, t = takeRefusal q b)
    (ht : t.lp.terminal = true) : t = { b with lp := t.lp } ∧ t.lp.id = b.lp.id := by
  rcases h with h | ⟨q, rfl⟩
  · have he := (execEtrackc_next h).2.of_not_completed fun c hc => by simp [LP.terminal, hc] at ht
    rw [he]
    exact ⟨rfl, rfl⟩
  · exact ⟨rfl, rfl⟩

/-! ### The obligations -/

/-- Settles O2: a step keeps each part of the invariant, the processors up to their order. -/
theorem stepKeepsMachineInvariant : Obligations.StepKeepsMachineInvariant := by
  intro s t hi h
  obtain ⟨p, hk⟩ := exists_stepKept h
  refine ⟨by rw [hk.cfg]; exact hi.cfg, by rw [hk.text]; exact hi.text, by rw [hk.cfg]; exact hk.epc.epcInv hi.epc,
    fun q hq => ?_, hk.ids.nodup_iff.2 hi.ids⟩
  have hlps : ∀ q ∈ p :: t.others, LpInv q := fun q hq => hi.lps q (hk.lps.subset hq)
  rcases List.mem_cons.1 hq with rfl | hq
  · exact hk.lp.lpInv (hlps p (List.mem_cons_self ..))
  · exact hlps q (List.mem_cons_of_mem _ hq)

/-- Settles O9: the processor that a step changes has no terminal outcome. -/
theorem terminalProcessorNeverChanges : Obligations.TerminalProcessorNeverChanges := by
  intro s t q hq hterm h
  obtain ⟨p, hk⟩ := exists_stepKept h
  rcases List.mem_cons.1 (hk.lps.symm.subset hq) with rfl | hq
  · rcases hk.turn with hsame | hnot
    · exact hsame ▸ List.mem_cons_self ..
    · rw [hterm] at hnot
      cases hnot
  · exact List.mem_cons_of_mem _ hq

/-- Settles O10. -/
theorem otherProcessorsAreUntouched : Obligations.OtherProcessorsAreUntouched := by
  intro s t h
  obtain ⟨p, hk⟩ := exists_stepKept h
  exact ⟨p, t.others, hk.lps, rfl, hk.lp.id, hk.lp.mode, hk.lp.cpl, hk.lp.vmxNonRoot⟩

/-- Settles O50: the processor that ended is the one named, so another is found as it was. -/
theorem otherProcessorsGoOnAfterATerminalOutcome : Obligations.OtherProcessorsGoOnAfterATerminalOutcome := by
  intro s t p k j l m rest hids hs h hterm hp hj hjk
  subst hj
  rcases step_next h with ⟨a, v, _, hs', _⟩ | ⟨k', l', rest', s', hs', hf, _, hend⟩
  · rw [hs] at hs'
    cases hs'
  · rw [hs] at hs'
    cases hs'
    obtain ⟨p₀, ps, rfl, hk, hperm⟩ := focus_eq_some hf
    obtain ⟨ht, hid⟩ := turn_to_terminal hend hterm
    have hpt : p ∈ ps := (List.mem_cons.1 (hperm.symm.subset hp)).resolve_left fun he => hjk (he ▸ hk)
    have hids' : ((t.lp :: ps).map LP.id).Nodup := by
      rw [List.map_cons, hid]
      exact (hperm.map LP.id).nodup_iff.2 hids
    rw [ht]
    obtain ⟨qs, hu⟩ := focus_of_mem (s := { t with others := ps, schedule := rest }) hids' (List.mem_cons_of_mem _ hpt)
    rw [ht] at hu
    exact ⟨rfl, _, hu, rfl, rfl, rfl, rfl⟩

/-- Settles O11. -/
theorem stepKeepsProgramTextAndEpcm : Obligations.StepKeepsProgramTextAndEpcm := by
  intro s t h
  obtain ⟨p, hk⟩ := exists_stepKept h
  exact ⟨hk.cfg, fun a => by rw [hk.text], hk.epc.page?_map⟩

end Sys2Proof.Machine
end

section
/-! PROOF. The refusals and model faults of S0, and the checks of the operand (40_etrackc.md R71 to R75). -/

namespace Sys2Proof.Machine

/-! ### S0 -/

theorem execEtrackc_refused {s : State} {r : Refusal} (h : launchRefusal s = some r) :
    execEtrackc s = .refused r := by
  simp [execEtrackc, h]

theorem modeSupported_iff (m : Mode) : modeSupported m = true ↔ m = .mode64 ∨ m = .prot32 := by
  cases m <;> decide

theorem topAddress_of_supported {m : Mode} (h : m = .mode64 ∨ m = .prot32) :
    topAddress m = if m = .mode64 then 2 ^ 64 - 1 else 2 ^ 32 - 1 := by
  rcases h with rfl | rfl <;> rfl

/-- The refusals of S0 in the order of 40_etrackc.md R71, each said by what it reads. -/
theorem launchRefusal_eq (s : State) :
    launchRefusal s =
      if s.lp.mode ≠ .mode64 ∧ s.lp.mode ≠ .prot32 then some .unsupportedMode
      else if s.lp.rax.setWidth 32 ≠ 0x11#32 then some (.otherLeaf (s.lp.rax.setWidth 32))
      else if sgxWellFormed s.epc = false then some .sgxNotWellFormed
      else if s.lp.mode = .prot32 ∧ s.lp.ds.base.setWidth 12 ≠ 0#12 then some .dsBaseNotPageAligned
      else if s.lp.pc.toNat + s.cfg.enclsLen > (if s.lp.mode = .mode64 then 2 ^ 64 - 1 else 2 ^ 32 - 1) then some .pcWrap
      else none := by
  unfold launchRefusal
  by_cases hm : s.lp.mode ≠ .mode64 ∧ s.lp.mode ≠ .prot32
  · have : modeSupported s.lp.mode = false := by rw [← Bool.not_eq_true, modeSupported_iff]; tauto
    simp [hm, this]
  · have hm' : s.lp.mode = .mode64 ∨ s.lp.mode = .prot32 := by tauto
    rw [(modeSupported_iff _).2 hm', topAddress_of_supported hm']
    simp only [hm, Bool.not_true, Bool.false_eq_true, if_false, Bool.not_eq_true', pageAligned_eq_false_iff_setWidth]
    rfl

/-- A processor of a launch state, with 11H in EAX, is not refused (70_reset_and_hazards.md R131). -/
theorem unrefused_of_launch {s s' : State} {k : Nat} {l : RegLoad} (h : Launch s) (hf : focus k s = some s')
    (hl : (l.rax.getD s'.lp.rax).setWidth 32 = 0x11#32) : Unrefused (beginExecution l s') := by
  obtain ⟨p, ps, rfl, _, hperm⟩ := focus_eq_some hf
  have hp : p ∈ s.lp :: s.others := hperm.subset (List.mem_cons_self ..)
  exact ⟨(modeSupported_iff _).1 (h.mode p hp), hl, h.sgx, h.dsBase p hp, h.room p hp⟩

/-! ### S1 to S3 -/

/-- S2 finds nothing wrong where the canonical and DS checks pass. -/
theorem segmentFault_eq_false {s : State} (hm : s.lp.mode = .mode64 ∨ s.lp.mode = .prot32)
    (hl : s.lp.mode = .mode64 → canonical s.cfg.laBits (linearAddress s.lp) = true)
    (hp : s.lp.mode = .prot32 → s.lp.ds.usable = true ∧
      dsViolation s.lp.ds (effectiveAddress s.lp) s.cfg.access = false) : segmentFault s.cfg s.lp = false := by
  rcases hm with hm | hm
  · simp [segmentFault_mode64 hm, hl hm]
  · simp [segmentFault_prot32 hm, hp hm]

theorem exec_exception {s : State} {e : Exc} (hs : Admitted s) (h : resolveOperand s = .exception e) :
    exec .etrackc s = .next (takeException e s) :=
  execEtrackc_of_ends hs.toUnrefused (.exception hs h)

/-- S3 raises no #GP. -/
theorem resolveLinear_ne_gp (s : State) (la c : Word) : resolveLinear s la ≠ .exception (.gp c) := by
  intro h
  rcases resolveLinear_cases s la with ⟨_, _, h'⟩ | ⟨_, _, _, h'⟩ | ⟨_, _, _, _, h'⟩ <;> rw [h'] at h <;> cases h

theorem resolveOperand_gp_iff (s : State) (c : Word) :
    resolveOperand s = .exception (.gp c) ↔
      c = 0 ∧ (segmentFault s.cfg s.lp = true ∨ pageAligned (linearAddress s.lp) = false) := by
  rcases resolveOperand_cases s with ⟨hgp, h⟩ | ⟨ha, hs, h⟩
  · rw [h, Resolved.exception.injEq, Exc.gp.injEq, eq_comm, and_iff_left hgp.symm]
  · rw [h]
    simp [ha, hs, resolveLinear_ne_gp]

/-- An execution ends in #GP exactly where its operand raises it. -/
theorem exec_gp_iff {s : State} (hs : Admitted s) (c : Word) :
    (∃ t, exec .etrackc s = .next t ∧ t.lp.outcome = some (.exception (.gp c))) ↔
      resolveOperand s = .exception (.gp c) := by
  constructor
  · rintro ⟨t, ht, ho⟩
    cases (execEtrackc_next ht).2 with
    | exception _ hr =>
      cases ho
      exact hr
    | _ => cases ho
  · intro h
    exact ⟨_, exec_exception hs h, rfl⟩

/-- Two shifted words are equal exactly when their bits from there on are. -/
theorem ushiftRight_eq_iff (a b : Word) (k : Nat) :
    a >>> k = b >>> k ↔ ∀ i, k ≤ i → i ≤ 63 → a.getLsbD i = b.getLsbD i := by
  constructor
  · intro h i hk _
    obtain ⟨j, rfl⟩ := Nat.exists_eq_add_of_le hk
    simpa using congrArg (BitVec.getLsbD · j) h
  · intro h
    refine BitVec.eq_of_getLsbD_eq fun j _ => ?_
    rw [BitVec.getLsbD_ushiftRight, BitVec.getLsbD_ushiftRight]
    by_cases hj : k + j ≤ 63
    · exact h _ (Nat.le_add_right ..) hj
    · rw [BitVec.getLsbD_of_ge _ _ (by omega), BitVec.getLsbD_of_ge _ _ (by omega)]

theorem ushiftRight_eq_zero_iff (a : Word) (k : Nat) :
    a >>> k = 0 ↔ ∀ i, k ≤ i → i ≤ 63 → a.getLsbD i = false := by
  simpa using ushiftRight_eq_iff a 0 k

theorem ushiftRight_eq_allOnes_iff (a : Word) (k : Nat) :
    a >>> k = BitVec.allOnes 64 >>> k ↔ ∀ i, k ≤ i → i ≤ 63 → a.getLsbD i = true := by
  rw [ushiftRight_eq_iff]
  refine forall_congr' fun i => forall_congr' fun _ => forall_congr' fun hi => ?_
  rw [BitVec.getLsbD_allOnes, decide_eq_true (Nat.lt_succ_of_le hi)]

/-- The page offset is below the size of a page, which divides 2^64 (20_memory.md R45). -/
theorem ofNat_page_setWidth (page : Nat) (la : Word) :
    (BitVec.ofNat 64 (page * 4096 + la.toNat % 4096)).setWidth 12 = la.setWidth 12 := by
  apply BitVec.eq_of_toNat_eq
  simp only [BitVec.toNat_setWidth, BitVec.toNat_ofNat]
  omega

/-! ### The obligations -/

/-- Settles O15. -/
theorem refusalsComeInOrder : Obligations.RefusalsComeInOrder := by
  intro s
  have h := launchRefusal_eq s
  generalize (if s.lp.mode = .mode64 then 2 ^ 64 - 1 else 2 ^ 32 - 1) = top at h ⊢
  split_ifs at h ⊢
  · exact execEtrackc_refused h
  · exact execEtrackc_refused h
  · exact execEtrackc_refused h
  · exact execEtrackc_refused h
  · exact execEtrackc_refused h
  · exact (execEtrackc_ends ((launchRefusal_eq_none_iff s).1 h)).imp fun _ => And.left

/-- Settles O16. -/
theorem missingFeatureIsLeafUnavailable : Obligations.MissingFeatureIsLeafUnavailable :=
  fun _ hu hf => execEtrackc_of_ends hu (.leafUnavailable hf)

/-- Settles O17. -/
theorem userModeIsNotCPL0 : Obligations.UserModeIsNotCPL0 :=
  fun _ hu hf hc => execEtrackc_of_ends hu (.notCPL0 hf hc)

/-- Settles O18: at that privilege level the EPC is read for SGXWellFormed only, and the draws are not read. -/
theorem unprivilegedCodeLearnsNothingOfTheEpc : Obligations.UnprivilegedCodeLearnsNothingOfTheEpc := by
  intro s t e d hc _ he ht
  obtain ⟨hu, hends⟩ := execEtrackc_next ht
  obtain ⟨f, rfl, hfault⟩ := hends.of_cpl_ne_zero hc
  exact execEtrackc_of_ends ⟨hu.mode, hu.leaf, he, hu.dsBase, hu.room⟩ (hfault _ rfl rfl)

/-- Settles O55: the launch premises exclude each refusal, and a clear feature flag. -/
theorem launchedProcessorRunsEtrackc : Obligations.LaunchedProcessorRunsEtrackc := by
  intro s s' k l h hf hl
  obtain ⟨t, ht, he⟩ := execEtrackc_ends (unrefused_of_launch h hf hl)
  refine ⟨t, ht, fun m ho => ?_⟩
  have hoff : s'.cfg.featureEtrackc = false := he.of_leafUnavailable ho
  obtain ⟨_, _, rfl, _, _⟩ := focus_eq_some hf
  rw [h.feature] at hoff
  cases hoff

/-- Settles O20. -/
theorem protectedModeGPCases : Obligations.ProtectedModeGPCases := by
  intro s c hs hm
  rw [exec_gp_iff hs, resolveOperand_gp_iff, segmentFault_prot32 hm, pageAligned_eq_false_iff_setWidth, Bool.or_eq_true,
    Bool.not_eq_true', or_comm (a := s.lp.ds.usable = false), or_assoc]

/-- Settles O21. -/
theorem longModeGPCases : Obligations.LongModeGPCases := by
  intro s c hs hm
  rw [exec_gp_iff hs, resolveOperand_gp_iff, segmentFault_mode64 hm, pageAligned_eq_false_iff_setWidth,
    Bool.not_eq_true']

/-- Settles O22: the two shifts compared are those of the word whose bits are all 0 and the one whose bits are all 1. -/
theorem canonicalMeansEqualTopBits : Obligations.CanonicalMeansEqualTopBits := by
  intro n la hn hn'
  rw [canonical, Bool.or_eq_true, beq_iff_eq, beq_iff_eq, ushiftRight_eq_zero_iff, ushiftRight_eq_allOnes_iff]
  constructor
  · rintro (h | h) i hi hi' <;> rw [h i hi hi', h 63 (by omega) le_rfl]
  · intro h
    cases htop : la.getLsbD 63
    · exact .inl fun i hi hi' => (h i hi hi').trans htop
    · exact .inr fun i hi hi' => (h i hi hi').trans htop

/-- Settles O23. -/
theorem linearAddressOfTheOperand : Obligations.LinearAddressOfTheOperand := by
  intro p
  refine ⟨linearAddress_mode64, fun hm => ?_⟩
  rw [linearAddress_prot32 hm, effectiveAddress_prot32 hm]
  simp only [BitVec.toNat_setWidth, BitVec.toNat_add]
  omega

/-- Settles O24. -/
theorem translationFaultRaisesPF : Obligations.TranslationFaultRaisesPF := by
  intro s pfec hs ha hl hp ht
  refine exec_exception hs ?_
  rw [resolveOperand_linear ha (segmentFault_eq_false hs.mode hl hp)]
  simp [resolveLinear, ht]

/-- Settles O25: the error code is PFEC.SGX together with the bits drawn. -/
theorem operandOutsideEpcRaisesPF : Obligations.OperandOutsideEpcRaisesPF := by
  intro s pa hs ha hl hp ht he
  refine ⟨s.cfg.pfecSgx ||| s.draws.pfecBits, ?_, ?_, exec_exception hs ?_⟩
  · ext i hi
    cases h : s.cfg.pfecSgx[i] <;> simp [h]
  · ext i hi
    cases h : s.cfg.pfecSgx[i] <;> simp [h]
  · rw [resolveOperand_linear ha (segmentFault_eq_false hs.mode hl hp)]
    simp [resolveLinear, ht, he]

/-- Settles O26. -/
theorem translationKeepsThePageOffset : Obligations.TranslationKeepsThePageOffset := by
  intro table unlisted la pa kind h
  unfold translateAddress at h
  split at h
  · cases h
  · split at h
    · cases h
    · cases h
      exact ofNat_page_setWidth _ la

end Sys2Proof.Machine
end

section
/-! PROOF. From the page to the SECS: S4 to S9 (40_etrackc.md R76 to R81), and what an execution after another meets
(20_memory.md section 6, 70_reset_and_hazards.md section 3). -/

namespace Sys2Proof.Machine

/-! ### S6: where the SECS is -/

theorem throughEnclaveSecs_iff (t : PageType) : t.throughEnclaveSecs = true ↔ t = .reg ∨ t = .tcs ∨ t = .trim := by
  cases t <;> simp [PageType.throughEnclaveSecs]

theorem untracked_iff (t : PageType) : (t ≠ .reg ∧ t ≠ .tcs ∧ t ≠ .trim ∧ t ≠ .secs) ↔ ∃ n, t = .other n := by
  cases t <;> simp

theorem targetSecs_of_throughEnclaveSecs (pa : Word) {p : EpcPage} (h : p.pt = .reg ∨ p.pt = .tcs ∨ p.pt = .trim) :
    targetSecs pa p = some p.enclaveSecs.toNat := by
  rcases h with h | h | h <;> simp [targetSecs, h]

/-- A PT_SECS page that an operand resolves to is its own SECS: the physical address is aligned. -/
theorem targetSecs_of_secs {s : State} {pa : Word} {p : EpcPage} (hp : OperandResolves s pa p) (h : p.pt = .secs) :
    targetSecs pa p = some pa.toNat := by
  simp [targetSecs, h, pageKey_of_resolves hp]

theorem targetSecs_of_other (pa : Word) {p : EpcPage} {n : Nat} (h : p.pt = .other n) : targetSecs pa p = none := by
  simp [targetSecs, h]

/-- The SECS of a page of any of the four tracked types. -/
theorem targetSecs_of_tracked {s : State} {pa : Word} {p : EpcPage} (hp : OperandResolves s pa p)
    (h : ∀ n, p.pt ≠ .other n) :
    targetSecs pa p = some (if p.pt = .secs then pa.toNat else p.enclaveSecs.toNat) := by
  by_cases hs : p.pt = .secs
  · rw [targetSecs_of_secs hp hs, if_pos hs]
  · rw [if_neg hs]
    refine targetSecs_of_throughEnclaveSecs pa ?_
    cases ht : p.pt with
    | secs => exact absurd ht hs
    | other n => exact absurd ht (h n)
    | reg | tcs | trim => simp

/-- An operand that passes S4 to S6 leads to a SECS of the EPC. -/
theorem exists_onSecs {s : State} {pa : Word} {p : EpcPage} {a : Nat} (hp : OperandResolves s pa p)
    (hm : pageBeingModified s = false) (hv : p.valid = true) (ha : targetSecs pa p = some a) :
    ∃ sp, OnSecs s a sp := by
  obtain ⟨sp, hsp⟩ := exists_targetSecs hp hv ha
  exact ⟨sp, ⟨pa, p, hp, hv, ha⟩, hm, hsp⟩

/-- The SECS reached, with the EPC page that holds it. -/
theorem exists_onSecs_of_secsReached {s : State} {a : Nat} {q : Secs} (h : SecsReached s a q) :
    ∃ sp, OnSecs s a sp ∧ sp.secs = q := by
  obtain ⟨⟨pa, p, hp, hv, ht⟩, hm, sp, hsp, hq⟩ := h
  refine ⟨sp, ⟨⟨pa, p, hp, hv, ?_⟩, hm, hsp⟩, hq⟩
  rcases ht with ⟨ht, rfl⟩ | ⟨ht, rfl⟩
  · exact targetSecs_of_throughEnclaveSecs pa ht
  · exact targetSecs_of_secs hp ht

theorem OnSecs.unrefused {s : State} {a : Nat} {sp : EpcPage} (h : OnSecs s a sp) : Unrefused s := by
  obtain ⟨⟨_, _, hp, _⟩, _⟩ := h
  exact hp.admitted.toUnrefused

/-! ### S7 to S9: how the work on a SECS ends -/

theorem exec_facilityConflict {s : State} {a : Nat} {sp : EpcPage} (h : OnSecs s a sp)
    (hv : vmExitEnabled s.lp = false) (hb : trackingFacilityBusy s = true) :
    exec .etrackc s = .next (complete .epcPageConflict (completionFlags .epcPageConflict) s) :=
  execEtrackc_of_ends h.unrefused (.facilityConflict h hv hb)

theorem exec_cycleIncomplete {s : State} {a : Nat} {sp : EpcPage} (h : OnSecs s a sp)
    (hv : vmExitEnabled s.lp = false) (hb : trackingFacilityBusy s = false) (ht : sp.secs.tracking ≠ 0) :
    exec .etrackc s = .next (complete .prevTrkIncmpl (completionFlags .prevTrkIncmpl) s) :=
  execEtrackc_of_ends h.unrefused (.cycleIncomplete h hv hb ht)

theorem exec_success {s : State} {a : Nat} {sp : EpcPage} (h : OnSecs s a sp)
    (hb : trackingFacilityBusy s = false) (ht : sp.secs.tracking = 0) :
    exec .etrackc s = .next (complete .noError (completionFlags .noError) (startTracking a s)) :=
  execEtrackc_of_ends h.unrefused (.success h hb ht)

/-- A tracking conflict is reported by the VM exit where it is enabled, by the return code elsewhere. -/
theorem trackingConflict_outcome (q : Secs) (code : Word) (c : ReturnCode) (s : State) :
    (trackingConflict q code c s).lp.outcome =
      if vmExitEnabled s.lp = true then some (.vmExit ⟨s.cfg.exitReasonSgxConflict, code, 0, q.enclaveContext, 0⟩)
      else some (.completed c) := by
  unfold trackingConflict
  split <;> rfl

/-- The outcomes of the work on a SECS, in the order of S7 to S9. -/
theorem etrackcOnSecs_outcome (a : Nat) (q : Secs) (s : State) :
    (etrackcOnSecs a q s).lp.outcome =
      if trackingFacilityBusy s = true then
        if vmExitEnabled s.lp = true then
          some (.vmExit ⟨s.cfg.exitReasonSgxConflict, s.cfg.qualTrackingResourceConflict, 0, q.enclaveContext, 0⟩)
        else some (.completed .epcPageConflict)
      else if q.tracking ≠ 0 then
        if vmExitEnabled s.lp = true then
          some (.vmExit ⟨s.cfg.exitReasonSgxConflict, s.cfg.qualTrackingReferenceConflict, 0, q.enclaveContext, 0⟩)
        else some (.completed .prevTrkIncmpl)
      else some (.completed .noError) := by
  unfold etrackcOnSecs
  split
  · exact trackingConflict_outcome ..
  · split
    · exact trackingConflict_outcome ..
    · rfl

/-- A success sets TRACKING of the SECS to the value drawn, cut to its width, and starts a cycle. -/
theorem page?_startTracking {s : State} {a : Nat} {p : EpcPage} (h : s.epc.page? a = some p) :
    (startTracking a s).epc.page? a = some { p with secs := { p.secs with
      trackState := Config.startTrackingCycle p.secs.trackState
      tracking := s.draws.tracking % 2 ^ s.cfg.trackingBits } } := by
  rw [startTracking_epc, Epc.page?_updateSecs_self, h]
  rfl

/-! ### The obligations -/

/-- Settles O27: S4 comes before S5, and its flags are the parameter's. -/
theorem pageBeingModifiedReturnsConflict : Obligations.PageBeingModifiedReturnsConflict := by
  intro s pa p hp hm
  refine (execEtrackc_of_ends hp.admitted.toUnrefused (.pageConflict hp hm)).trans ?_
  have hf : s4Flags s = if s.cfg.conflictPathFlags = .cleared then ⟨true, false, false, false, false, false⟩
      else ⟨true, false, s.draws.pf, s.draws.af, s.draws.of, s.draws.sf⟩ := by
    unfold s4Flags
    cases s.cfg.conflictPathFlags <;> rfl
  rw [hf]
  rfl

/-- Settles O29. -/
theorem pageTypeFindsTheSecs : Obligations.PageTypeFindsTheSecs := by
  intro s pa p hp hm hv
  refine ⟨fun n ht => ?_, fun ht => ?_, fun ht => ?_⟩
  · exact execEtrackc_of_ends hp.admitted.toUnrefused (.notTracked hp hm hv (targetSecs_of_other pa ht))
  · obtain ⟨_, sp, hsp, hvalid, htype⟩ :=
      secs_of_sgxWellFormed hp.admitted.sgx hp.inEpc hv ((throughEnclaveSecs_iff _).2 ht)
    exact ⟨sp, hsp, hvalid, htype,
      execEtrackc_onSecs ⟨⟨pa, p, hp, hv, targetSecs_of_throughEnclaveSecs pa ht⟩, hm, hsp⟩⟩
  · have hin : s.epc.page? pa.toNat = some p := pageKey_of_resolves hp ▸ hp.inEpc
    exact execEtrackc_onSecs ⟨⟨pa, p, hp, hv, targetSecs_of_secs hp ht⟩, hm, hin⟩

/-- Settles O30. -/
theorem busyFacilityReturnsConflict : Obligations.BusyFacilityReturnsConflict := by
  intro s a q h hb hv
  obtain ⟨sp, hsecs, _⟩ := exists_onSecs_of_secsReached h
  exact exec_facilityConflict hsecs hv hb

/-- Settles O31. -/
theorem incompleteCycleReturnsPrevTrkIncmpl : Obligations.IncompleteCycleReturnsPrevTrkIncmpl := by
  intro s a q h hb ht hv
  obtain ⟨sp, hsecs, rfl⟩ := exists_onSecs_of_secsReached h
  exact exec_cycleIncomplete hsecs hv hb ht

/-- Settles O32. -/
theorem trackingConflictExitsToTheMonitor : Obligations.TrackingConflictExitsToTheMonitor := by
  intro s a q h hnonroot hctl hconf
  obtain ⟨sp, hsecs, rfl⟩ := exists_onSecs_of_secsReached h
  have hv : vmExitEnabled s.lp = true := by simp [vmExitEnabled, hnonroot, hctl]
  refine ⟨_, rfl, execEtrackc_of_ends hsecs.unrefused (.vmExit hsecs hv ?_)⟩
  cases hb : trackingFacilityBusy s
  · exact .inr ⟨rfl, hconf.resolve_left (by simp [hb]), rfl⟩
  · exact .inl ⟨rfl, rfl⟩

/-- Settles O33. -/
theorem successStartsATrackingCycle : Obligations.SuccessStartsATrackingCycle := by
  intro s a q h hb ht
  obtain ⟨sp, hsecs, rfl⟩ := exists_onSecs_of_secsReached h
  refine ⟨_, exec_success hsecs hb ht, rfl, ?_, fun b hne => Epc.page?_updateSecs_other _ _ hne⟩
  exact congrArg (Option.map EpcPage.secs) (page?_startTracking hsecs.secs)

/-- Settles O34: the second execution reads the TRACKING that the first one drew. -/
theorem secondStartDependsOnTheDraw : Obligations.SecondStartDependsOnTheDraw := by
  intro s t u a q q' h ht ho hepc hu hb hv
  obtain ⟨sp, hsecs, rfl⟩ := exists_onSecs_of_secsReached h
  obtain ⟨sp', hsecs', rfl⟩ := exists_onSecs_of_secsReached hu
  have htrack : sp'.secs.tracking = s.draws.tracking % 2 ^ s.cfg.trackingBits := by
    obtain ⟨a', _, hstart, _, _, rfl⟩ := (execEtrackc_next ht).2.of_noError ho
    obtain ⟨pa, p, hp, _, ha⟩ := hstart.page
    obtain rfl : a' = a := hsecs.address_eq hp ha
    have hleft := hsecs'.secs
    rw [hepc, complete_epc, page?_startTracking hsecs.secs] at hleft
    cases hleft
    rfl
  rw [← htrack]
  by_cases hz : sp'.secs.tracking = 0
  · exact ⟨_, exec_success hsecs' hb hz, fun _ => rfl, fun h => absurd hz h⟩
  · exact ⟨_, exec_cycleIncomplete hsecs' hv hb hz, fun h => absurd h hz, fun _ => rfl⟩

/-- Settles O35: without concurrent agents no draw stands in the way of S9. -/
theorem bootRequirementsSuffice : Obligations.BootRequirementsSuffice := by
  intro s pa p hp hn hv htrack ht
  have hm : pageBeingModified s = false := by simp [pageBeingModified, hn]
  have hb : trackingFacilityBusy s = false := by simp [trackingFacilityBusy, hn]
  obtain ⟨sp, hsecs⟩ := exists_onSecs hp hm hv (targetSecs_of_tracked hp ht)
  exact ⟨_, exec_success hsecs hb (htrack sp hsecs.secs), rfl, rfl⟩

/-- Settles O36. -/
theorem operationFollowsItsOrder : Obligations.OperationFollowsItsOrder := by
  intro s pa p hp
  have hu := hp.admitted.toUnrefused
  cases hm : pageBeingModified s
  · cases hv : p.valid
    · exact ⟨_, execEtrackc_of_ends hu (.pageInvalid hp hm hv), rfl⟩
    · by_cases ht : ∃ n, p.pt = .other n
      · obtain ⟨n, hn⟩ := ht
        refine ⟨_, execEtrackc_of_ends hu (.notTracked hp hm hv (targetSecs_of_other pa hn)), ?_⟩
        simp [hn]
      · obtain ⟨sp, hsecs⟩ := exists_onSecs hp hm hv (targetSecs_of_tracked hp (not_exists.1 ht))
        refine ⟨_, execEtrackc_onSecs hsecs, ?_⟩
        simp only [untracked_iff, ht, if_false, Bool.false_eq_true, Bool.true_eq_false]
        refine ⟨sp, hsecs.secs, ?_⟩
        rw [etrackcOnSecs_outcome, vmExitEnabled]
        split_ifs <;> rfl
  · exact ⟨_, execEtrackc_of_ends hu (.pageConflict hp hm), rfl⟩

end Sys2Proof.Machine
end

section
/-! PROOF. What an execution does not read: the six flags and the high halves of RAX and RCX on entry, and the same
execution once more (40_etrackc.md R85, 70_reset_and_hazards.md section 3). -/

namespace Sys2Proof.Machine

/-! ### Two states with the same operand -/

/-- What the resolution of the operand to a page of the EPC reads. -/
structure SameOperand (s u : State) : Prop where
  cfg : u.cfg = s.cfg
  epc : u.epc = s.epc
  mode : u.lp.mode = s.lp.mode
  ds : u.lp.ds = s.lp.ds
  translation : u.lp.translation = s.lp.translation
  effective : effectiveAddress u.lp = effectiveAddress s.lp

theorem SameOperand.linearAddress_eq {s u : State} (h : SameOperand s u) : linearAddress u.lp = linearAddress s.lp := by
  simp only [linearAddress, h.mode, h.ds, h.effective]

/-- With the same draws the whole resolution is the same. -/
theorem SameOperand.resolveOperand_eq {s u : State} (h : SameOperand s u) (hd : u.draws = s.draws) :
    resolveOperand u = resolveOperand s := by
  have hla := h.linearAddress_eq
  obtain ⟨hcfg, hepc, hmode, hds, htrans, hea⟩ := h
  have hseg : segmentFault s.cfg u.lp = segmentFault s.cfg s.lp := by
    simp only [segmentFault, hmode, hds, hla, hea]
  simp only [resolveOperand, resolveLinear, hseg, hla, hcfg, hepc, htrans, hd]

/-- What a listed page translates to does not depend on the fault of an unlisted one. -/
theorem translateAddress_ok_unlisted {table : List Mapping} {unlisted la pa : Word} {kind : AccessKind}
    (h : translateAddress table unlisted la kind = .ok pa) (unlisted' : Word) :
    translateAddress table unlisted' la kind = .ok pa := by
  unfold translateAddress at h ⊢
  split at h
  · cases h
  · exact h

/-- An operand resolves to the same page wherever what it reads is the same, whatever the draws. -/
theorem SameOperand.resolves {s u : State} {pa : Word} {p : EpcPage} (h : SameOperand s u) (hu : Admitted u)
    (hp : OperandResolves s pa p) : OperandResolves u pa p := by
  have hla := h.linearAddress_eq
  obtain ⟨hcfg, hepc, hmode, hds, htrans, hea⟩ := h
  refine ⟨hu, ?_, ?_, ?_, ?_, ?_⟩
  · rw [hla]; exact hp.aligned
  · rw [hla, hcfg, hmode]; exact hp.long
  · rw [hea, hcfg, hmode, hds]; exact hp.segment
  · rw [hla, hcfg, htrans]; exact translateAddress_ok_unlisted hp.translated _
  · rw [hepc]; exact hp.inEpc

/-! ### Other values in RAX[63:32], RCX and the flags -/

/-- The state with other values in RAX, RCX and the six flags of the processor in turn. -/
def withRegs (s : State) (rax rcx : Word) (f : Flags) : State :=
  s.setLp { s.lp with rax := rax, rcx := rcx, flags := f }

/-- An ending as the update of the state it is. -/
inductive Ending where
  | modelFault (f : ModelFault)
  | exception (e : Exc)
  | completed (c : ReturnCode) (f : Flags)
  | success (secsPa : Nat)
  | vmExit (code gpa : Word)

def Ending.apply (s : State) : Ending → State
  | .modelFault f => takeModelFault f s
  | .exception e => takeException e s
  | .completed c f => complete c f s
  | .success secsPa => complete .noError (completionFlags .noError) (startTracking secsPa s)
  | .vmExit code gpa => takeVmExit code gpa s

section WithRegs

variable {s t : State} {rax rcx : Word} {f : Flags} (hrax : rax.setWidth 32 = s.lp.rax.setWidth 32)
  (hrcx : effectiveAddress { s.lp with rcx := rcx } = effectiveAddress s.lp)

include hrcx in
theorem sameOperand_withRegs : SameOperand s (withRegs s rax rcx f) := ⟨rfl, rfl, rfl, rfl, rfl, hrcx⟩

include hrax in
theorem unrefused_withRegs (h : Unrefused s) : Unrefused (withRegs s rax rcx f) :=
  ⟨h.mode, hrax.trans h.leaf, h.sgx, h.dsBase, h.room⟩

include hrax in
theorem admitted_withRegs (h : Admitted s) : Admitted (withRegs s rax rcx f) :=
  ⟨unrefused_withRegs hrax h.toUnrefused, h.feature, h.cpl⟩

include hrax hrcx in
theorem resolves_withRegs {pa : Word} {p : EpcPage} (h : OperandResolves s pa p) :
    OperandResolves (withRegs s rax rcx f) pa p :=
  (sameOperand_withRegs hrcx).resolves (admitted_withRegs hrax h.admitted) h

include hrax hrcx in
theorem onSecs_withRegs {a : Nat} {sp : EpcPage} (h : OnSecs s a sp) : OnSecs (withRegs s rax rcx f) a sp := by
  obtain ⟨⟨pa, p, hp, hv, ha⟩, hm, hsp⟩ := h
  exact ⟨⟨pa, p, resolves_withRegs hrax hrcx hp, hv, ha⟩, hm, hsp⟩

include hrax hrcx in
/-- The same ending is reached whatever those registers hold, if EAX and the effective address are the same. -/
theorem EtrackcEnds.ends_withRegs (he : EtrackcEnds s t) :
    ∃ e : Ending, t = e.apply s ∧ EtrackcEnds (withRegs s rax rcx f) (e.apply (withRegs s rax rcx f)) := by
  cases he with
  | leafUnavailable hf => exact ⟨.modelFault _, rfl, .leafUnavailable hf⟩
  | notCPL0 hf hc => exact ⟨.modelFault _, rfl, .notCPL0 hf hc⟩
  | exception ha hr =>
    have hsame := (sameOperand_withRegs (rax := rax) (f := f) hrcx).resolveOperand_eq rfl
    exact ⟨.exception _, rfl, .exception (admitted_withRegs hrax ha) (hsame.trans hr)⟩
  | pageConflict h hm => exact ⟨.completed _ _, rfl, .pageConflict (resolves_withRegs hrax hrcx h) hm⟩
  | pageInvalid h hm hv => exact ⟨.completed _ _, rfl, .pageInvalid (resolves_withRegs hrax hrcx h) hm hv⟩
  | notTracked h hm hv ht => exact ⟨.completed _ _, rfl, .notTracked (resolves_withRegs hrax hrcx h) hm hv ht⟩
  | vmExit h hv hc => exact ⟨.vmExit _ _, rfl, .vmExit (onSecs_withRegs hrax hrcx h) hv hc⟩
  | facilityConflict h hv hb => exact ⟨.completed _ _, rfl, .facilityConflict (onSecs_withRegs hrax hrcx h) hv hb⟩
  | cycleIncomplete h hv hb ht =>
    exact ⟨.completed _ _, rfl, .cycleIncomplete (onSecs_withRegs hrax hrcx h) hv hb ht⟩
  | success h hb ht => exact ⟨.success _, rfl, .success (onSecs_withRegs hrax hrcx h) hb ht⟩

include hrax hrcx in
/-- An execution from other values in those registers ends as it does from the first ones. -/
theorem exec_withRegs (h : exec .etrackc s = .next t) :
    ∃ e : Ending, t = e.apply s ∧
      exec .etrackc (withRegs s rax rcx f) = .next (e.apply (withRegs s rax rcx f)) := by
  obtain ⟨hu, he⟩ := execEtrackc_next h
  obtain ⟨e, ht, he'⟩ := he.ends_withRegs (f := f) hrax hrcx
  exact ⟨e, ht, execEtrackc_of_ends (unrefused_withRegs hrax hu) he'⟩

end WithRegs

/-- A completion leaves nothing of what RAX and the flags held. -/
theorem Ending.apply_of_completed {s : State} {rax : Word} {f : Flags} {e : Ending} {c : ReturnCode}
    (hc : (e.apply s).lp.outcome = some (.completed c)) : e.apply (withRegs s rax s.lp.rcx f) = e.apply s := by
  cases e with
  | completed | success => rfl
  | modelFault | exception | vmExit => cases hc

/-- Every other ending leaves the flags alone. -/
theorem Ending.apply_withFlags {s : State} {f : Flags} {e : Ending}
    (hc : ∀ c, (e.apply s).lp.outcome ≠ some (.completed c)) : e.apply (withFlags s f) = withFlags (e.apply s) f := by
  cases e with
  | completed | success => exact absurd rfl (hc _)
  | modelFault | exception | vmExit => rfl

/-- No ending writes RCX. -/
theorem Ending.apply_rcx (s : State) (rcx : Word) (e : Ending) :
    e.apply (withRegs s s.lp.rax rcx s.lp.flags) =
      { e.apply s with lp := { (e.apply s).lp with rcx := rcx } } := by
  cases e <;> rfl

/-- In protected mode the effective address reads RCX[31:0] only (20_memory.md R41). -/
theorem effectiveAddress_rcx_prot32 {p : LP} (h : p.mode = .prot32) (hi : BitVec 32) :
    effectiveAddress { p with rcx := hi ++ p.rcx.setWidth 32 } = effectiveAddress p := by
  refine (effectiveAddress_prot32 (p := { p with rcx := hi ++ p.rcx.setWidth 32 }) h).trans ?_
  rw [effectiveAddress_prot32 h]
  exact congrArg (BitVec.setWidth 64) BitVec.setWidth_append_eq_right

/-! ### The same execution once more -/

/-- The state with 11H in RAX once more, and other answers of the environment. -/
def reloaded (t : State) (d : Draws) : State := { t with lp := { t.lp with rax := 0x11 }, draws := d }

/-- After a completion that leaves the EPC, the operand resolves once more where there is room at pc. -/
theorem resolves_reloaded {s : State} {pa : Word} {p : EpcPage} (hp : OperandResolves s pa p) (c : ReturnCode)
    (f : Flags) (d : Draws) (hroom : (complete c f s).lp.pc.toNat + s.cfg.enclsLen ≤ topAddress s.lp.mode) :
    OperandResolves (reloaded (complete c f s) d) pa p := by
  have hs : Admitted s := hp.admitted
  have hleaf : (0x11 : Word).setWidth 32 = 0x11#32 := by decide
  have hsame : SameOperand s (reloaded (complete c f s) d) := ⟨rfl, rfl, rfl, rfl, rfl, rfl⟩
  exact hsame.resolves ⟨⟨hs.mode, hleaf, hs.sgx, hs.dsBase, hroom⟩, hs.feature, hs.cpl⟩ hp

/-! ### The obligations -/

/-- Settles O45. -/
theorem flagsOnEntryAreNotRead : Obligations.FlagsOnEntryAreNotRead := by
  intro s t f ht
  obtain ⟨e, rfl, he⟩ := exec_withRegs (rax := s.lp.rax) (rcx := s.lp.rcx) (f := f) rfl rfl ht
  refine ⟨fun c hc => ?_, fun hc => ?_⟩
  · rwa [Ending.apply_of_completed hc] at he
  · exact he.trans (congrArg _ (Ending.apply_withFlags hc))

/-- Settles O46. -/
theorem highHalfOfRaxIsIgnored : Obligations.HighHalfOfRaxIsIgnored := by
  intro s t h c ht hc
  refine ⟨?_, ?_⟩
  · obtain ⟨e, rfl, he⟩ := exec_withRegs (rax := h ++ s.lp.rax.setWidth 32) (rcx := s.lp.rcx) (f := s.lp.flags)
      BitVec.setWidth_append_eq_right rfl ht
    rwa [Ending.apply_of_completed hc] at he
  · rw [((execEtrackc_next ht).2.of_completed hc).1]
    exact returnValue_lt c

/-- Settles O47. -/
theorem highHalfOfRcxIsIgnoredInProtectedMode : Obligations.HighHalfOfRcxIsIgnoredInProtectedMode := by
  intro s t h hm ht
  obtain ⟨e, rfl, he⟩ := exec_withRegs (rax := s.lp.rax) (rcx := h ++ s.lp.rcx.setWidth 32) (f := s.lp.flags) rfl
    (effectiveAddress_rcx_prot32 hm h) ht
  rwa [Ending.apply_rcx] at he

/-- Settles O49: both codes leave the EPC and the operand, and neither reads a draw but that of the page. -/
theorem permanentCodesRepeat : Obligations.PermanentCodesRepeat := by
  intro s t c d ht hc hperm hd hroom
  have hm : pageBeingModified (reloaded t d) = false := by simp [pageBeingModified, reloaded, hd]
  cases (execEtrackc_next ht).2 with
  | pageInvalid hp _ hv =>
    have hp' := resolves_reloaded hp _ _ d hroom
    cases hc
    exact ⟨_, execEtrackc_of_ends hp'.admitted.toUnrefused (.pageInvalid hp' hm hv), rfl⟩
  | notTracked hp _ hv ha =>
    have hp' := resolves_reloaded hp _ _ d hroom
    cases hc
    exact ⟨_, execEtrackc_of_ends hp'.admitted.toUnrefused (.notTracked hp' hm hv ha), rfl⟩
  | leafUnavailable | notCPL0 | exception | vmExit => cases hc
  | pageConflict | facilityConflict | cycleIncomplete | success =>
    cases hc
    simp at hperm

end Sys2Proof.Machine
end
